-- ==== Sys2Proof/Word.lean ====
section
/-!
DEFINITION. The fixed widths of simple_des_core (spec/00_scope.md R7). Every value of the hardware
is unsigned (R10), so each is a plain bit vector of its own width.
-/

namespace Sys2Proof

/-- REG_W: a readable register, and the ARG part of a command word (R7, R61, R80). -/
abbrev Word := BitVec 32

/-- BLK_W and SUBKEY_W: a block, a subkey, a byte of text (R7). -/
abbrev Byte := BitVec 8

/-- KEY_W: a raw key, and every 10-bit value of the key schedule (R7). -/
abbrev Key := BitVec 10

/-- KHALF_W: one half of a key-schedule value (R7). -/
abbrev KeyHalf := BitVec 5

/-- HALF_W: a Feistel half (R7). -/
abbrev Half := BitVec 4

/-- SBOX_OUT_W: an S-box entry (R7). -/
abbrev SboxOut := BitVec 2

/-- CHAR_W: a character code on the interface (R7, spec/43_codec.md R200). -/
abbrev CharCode := BitVec 16

/-- CMD_W: a command word, OP then ARG (R7, spec/30_encoding.md R80). -/
abbrev CmdWord := BitVec 40

/-- RADDR_W: a register index of the read space (R7, spec/20_memory.md R61). -/
abbrev RAddr := BitVec 8

end Sys2Proof
end

