-- ==== Sys2Proof/Syntax.lean ====
section
/-!
DEFINITION. The commands of simple_des_core: one constructor for each row of spec/opcode_table.json
(spec/30_encoding.md R85), its operands those of the row's format (R82), each at exactly its width
(R83). Beside them, the error codes a command can end with (spec/60_exceptions.md R250).
-/

namespace Sys2Proof

/-- A command. -/
inductive Instr where
  /-- CTL.NOP, format N. -/
  | ctlNop
  /-- CTL.CLR, format N. -/
  | ctlClr
  /-- KS.P10, format K10. -/
  | ksP10 (v : Key)
  /-- KS.ROT1, format K10. -/
  | ksRot1 (v : Key)
  /-- KS.ROT2, format K10. -/
  | ksRot2 (v : Key)
  /-- KS.P8, format K10. -/
  | ksP8 (v : Key)
  /-- KS.LOAD, format K10. -/
  | ksLoad (key : Key)
  /-- FR.EP, format H4. -/
  | frEp (n : Half)
  /-- FR.XOR, format AB. -/
  | frXor (a b : Byte)
  /-- FR.SBOX0, format H4. -/
  | frSbox0 (n : Half)
  /-- FR.SBOX1, format H4. -/
  | frSbox1 (n : Half)
  /-- FR.P4, format H4. -/
  | frP4 (n : Half)
  /-- FR.F, format RK. -/
  | frF (sk : Byte) (r : Half)
  /-- FR.FK, format AB: `sk` is the format's `a`. -/
  | frFk (sk b : Byte)
  /-- BC.IP, format B8. -/
  | bcIp (b : Byte)
  /-- BC.IPINV, format B8. -/
  | bcIpinv (b : Byte)
  /-- BC.SW, format B8. -/
  | bcSw (b : Byte)
  /-- BC.ENC, format B8. -/
  | bcEnc (b : Byte)
  /-- BC.DEC, format B8. -/
  | bcDec (b : Byte)
  /-- BC.ENCK, format KB. -/
  | bcEnck (key : Key) (b : Byte)
  /-- BC.DECK, format KB. -/
  | bcDeck (key : Key) (b : Byte)
  /-- CD.T2B, format C16. -/
  | cdT2b (c : CharCode)
  /-- CD.B2T, format B8. -/
  | cdB2t (b : Byte)
  /-- CD.B64E, format G3. -/
  | cdB64e (cnt : BitVec 2) (b0 b1 b2 : Byte)
  /-- CD.B64D, format C4. -/
  | cdB64d (c0 c1 c2 c3 : Byte)
  /-- CD.HEX, format B8. -/
  | cdHex (b : Byte)
deriving DecidableEq, Repr

/-- The causes of an error (spec/60_exceptions.md R250, codes 1 to 7). -/
inductive ErrCode where
  /-- Code 1: OP is not in the opcode map. -/
  | illegalOp
  /-- Code 2: an ARG bit outside the format's fields is 1, or a G3 byte beyond the count is nonzero. -/
  | reservedNonzero
  /-- Code 3: BC.ENC or BC.DEC with STATUS.KV = 0. -/
  | keyNotLoaded
  /-- Code 4: CD.T2B with a character code above 255. -/
  | charRange
  /-- Code 5: CD.B64D with a malformed group. -/
  | base64Decode
  /-- Code 6: CD.B64E with count 0. -/
  | badCount
  /-- Code 7: reserved for BlockSizeError; no command raises it (spec/43_codec.md R211). -/
  | blockSize
deriving DecidableEq, Repr

end Sys2Proof
end

