-- ==== Sys2Proof/WellFormed.lean ====
section
/-!
DEFINITION. Well-formed commands. Every operand already has its field's exact width by its type
(spec/30_encoding.md R83), so the only limits left are those R82 puts on format G3: the count is
1, 2 or 3, and the bytes beyond the count are reserved and 0 (spec/43_codec.md R204, R205). A command
that breaks one still decodes, and CD.B64E ends it in the error R205 names (log 19).
-/

namespace Sys2Proof

/-- The count of a Base64 group is not 0 (spec/43_codec.md R205). -/
def groupCountOk : Instr → Bool
  | .cdB64e cnt _ _ _ => cnt != 0#2
  | _ => true

/-- The bytes of a Base64 group beyond its count are 0 (spec/30_encoding.md R82, format G3). -/
def groupTailOk : Instr → Bool
  | .cdB64e cnt b0 b1 b2 =>
    (decide (1 ≤ cnt.toNat) || b0 == 0#8) && (decide (2 ≤ cnt.toNat) || b1 == 0#8) && (decide (3 ≤ cnt.toNat) || b2 == 0#8)
  | _ => true

/-- A command whose operands keep every limit its format states (R82). -/
def WellFormed (i : Instr) : Bool := groupCountOk i && groupTailOk i

end Sys2Proof
end

