-- ==== Sys2Proof/Decode.lean ====
section
/-!
DEFINITION. The command word (spec/30_encoding.md R80 to R87): the operand formats with their reserved
masks, the opcode map, the decoder of R87, total on every 40-bit word and rejecting by error code, and
after it the encoder, written from the same tables.
-/

namespace Sys2Proof

/-- The operand formats (R82). -/
inductive Format where
  | n | k10 | h4 | b8 | rk | ab | kb | c16 | g3 | c4
deriving DecidableEq, Repr

/-- RSV: the ARG bits of a format that must be 0 (R82, the fixed masks). -/
def rsv : Format → Word
  | .n => 0xFFFFFFFF#32
  | .k10 => 0xFFFFFC00#32
  | .h4 => 0xFFFFFFF0#32
  | .b8 => 0xFFFFFF00#32
  | .rk => 0xFFFFF000#32
  | .ab => 0xFFFF0000#32
  | .kb => 0xFFFC0000#32
  | .c16 => 0xFFFF0000#32
  | .g3 => 0xFC000000#32
  | .c4 => 0x00000000#32

/-- The field `arg[lo + width - 1 : lo]` (spec/00_scope.md R10). -/
def field (arg : Word) (lo width : Nat) : BitVec width := arg.extractLsb' lo width

/-- One row of the opcode map (R85): its OP, its mnemonic, its format, and the command its ARG fields
give (R82). -/
structure OpRow where
  op : Byte
  mnemonic : String
  format : Format
  build : Word → Instr

/-- The control and key-schedule rows of R85. -/
def opRowsKey : List OpRow :=
  [ ⟨0x00#8, "CTL.NOP", .n, fun _ => .ctlNop⟩,
    ⟨0x01#8, "CTL.CLR", .n, fun _ => .ctlClr⟩,
    ⟨0x10#8, "KS.P10", .k10, fun x => .ksP10 (field x 0 10)⟩,
    ⟨0x11#8, "KS.ROT1", .k10, fun x => .ksRot1 (field x 0 10)⟩,
    ⟨0x12#8, "KS.ROT2", .k10, fun x => .ksRot2 (field x 0 10)⟩,
    ⟨0x13#8, "KS.P8", .k10, fun x => .ksP8 (field x 0 10)⟩,
    ⟨0x14#8, "KS.LOAD", .k10, fun x => .ksLoad (field x 0 10)⟩ ]

/-- The feistel_round and sbox_rom rows of R85. -/
def opRowsRound : List OpRow :=
  [ ⟨0x20#8, "FR.EP", .h4, fun x => .frEp (field x 0 4)⟩,
    ⟨0x21#8, "FR.XOR", .ab, fun x => .frXor (field x 8 8) (field x 0 8)⟩,
    ⟨0x22#8, "FR.SBOX0", .h4, fun x => .frSbox0 (field x 0 4)⟩,
    ⟨0x23#8, "FR.SBOX1", .h4, fun x => .frSbox1 (field x 0 4)⟩,
    ⟨0x24#8, "FR.P4", .h4, fun x => .frP4 (field x 0 4)⟩,
    ⟨0x25#8, "FR.F", .rk, fun x => .frF (field x 4 8) (field x 0 4)⟩,
    ⟨0x26#8, "FR.FK", .ab, fun x => .frFk (field x 8 8) (field x 0 8)⟩ ]

/-- The simple_des_block_cipher rows of R85. -/
def opRowsBlock : List OpRow :=
  [ ⟨0x30#8, "BC.IP", .b8, fun x => .bcIp (field x 0 8)⟩,
    ⟨0x31#8, "BC.IPINV", .b8, fun x => .bcIpinv (field x 0 8)⟩,
    ⟨0x32#8, "BC.SW", .b8, fun x => .bcSw (field x 0 8)⟩,
    ⟨0x33#8, "BC.ENC", .b8, fun x => .bcEnc (field x 0 8)⟩,
    ⟨0x34#8, "BC.DEC", .b8, fun x => .bcDec (field x 0 8)⟩,
    ⟨0x35#8, "BC.ENCK", .kb, fun x => .bcEnck (field x 8 10) (field x 0 8)⟩,
    ⟨0x36#8, "BC.DECK", .kb, fun x => .bcDeck (field x 8 10) (field x 0 8)⟩ ]

/-- The bitstring_codec rows of R85. -/
def opRowsCodec : List OpRow :=
  [ ⟨0x40#8, "CD.T2B", .c16, fun x => .cdT2b (field x 0 16)⟩,
    ⟨0x41#8, "CD.B2T", .b8, fun x => .cdB2t (field x 0 8)⟩,
    ⟨0x42#8, "CD.B64E", .g3, fun x => .cdB64e (field x 24 2) (field x 16 8) (field x 8 8) (field x 0 8)⟩,
    ⟨0x43#8, "CD.B64D", .c4, fun x => .cdB64d (field x 24 8) (field x 16 8) (field x 8 8) (field x 0 8)⟩,
    ⟨0x44#8, "CD.HEX", .b8, fun x => .cdHex (field x 0 8)⟩ ]

/-- OPMAP: the 26 defined commands (R85). -/
def opRows : List OpRow := opRowsKey ++ opRowsRound ++ opRowsBlock ++ opRowsCodec

/-- The row of an OP value, if it is defined (R85, R86). -/
def opRow (op : Byte) : Option OpRow := opRows.find? (fun r => r.op == op)

/-- OP = w[39:32] (R80). -/
def opOf (w : CmdWord) : Byte := w.extractLsb' 32 8

/-- ARG = w[31:0] (R80). -/
def argOf (w : CmdWord) : Word := w.extractLsb' 0 32

/-- The decoder (R87): a command, or the code of the first check that fails. -/
def decode (w : CmdWord) : Except ErrCode Instr :=
  match opRow (opOf w) with
  | none => .error .illegalOp
  | some r =>
    if argOf w &&& rsv r.format = 0#32 then .ok (r.build (argOf w)) else .error .reservedNonzero

/-- The command word of a row of spec/opcode_table.json: its bits above `nbits` are 0 (log 14). -/
def tableCmdWord (nbits w : Nat) : CmdWord := BitVec.ofNat 40 (w % 2 ^ nbits)

/-- The command the decoder reads from the word `w` of `nbits` bits, numbered as the table numbers
them. There is one command length, 40 bits (R81), so a longer word is no command. -/
def decodeTableWord (nbits w : Nat) : Option Instr :=
  if nbits ≤ 40 then
    match decode (tableCmdWord nbits w) with
    | .ok i => some i
    | .error _ => none
  else none

/-- The OP byte of a command (R85). -/
def opByte : Instr → Byte
  | .ctlNop => 0x00#8
  | .ctlClr => 0x01#8
  | .ksP10 _ => 0x10#8
  | .ksRot1 _ => 0x11#8
  | .ksRot2 _ => 0x12#8
  | .ksP8 _ => 0x13#8
  | .ksLoad _ => 0x14#8
  | .frEp _ => 0x20#8
  | .frXor _ _ => 0x21#8
  | .frSbox0 _ => 0x22#8
  | .frSbox1 _ => 0x23#8
  | .frP4 _ => 0x24#8
  | .frF _ _ => 0x25#8
  | .frFk _ _ => 0x26#8
  | .bcIp _ => 0x30#8
  | .bcIpinv _ => 0x31#8
  | .bcSw _ => 0x32#8
  | .bcEnc _ => 0x33#8
  | .bcDec _ => 0x34#8
  | .bcEnck _ _ => 0x35#8
  | .bcDeck _ _ => 0x36#8
  | .cdT2b _ => 0x40#8
  | .cdB2t _ => 0x41#8
  | .cdB64e _ _ _ _ => 0x42#8
  | .cdB64d _ _ _ _ => 0x43#8
  | .cdHex _ => 0x44#8

/-- The ARG word of a command: its fields in their places, every other bit 0 (R82). -/
def argWord : Instr → Word
  | .ctlNop => 0#32
  | .ctlClr => 0#32
  | .ksP10 v => v.setWidth 32
  | .ksRot1 v => v.setWidth 32
  | .ksRot2 v => v.setWidth 32
  | .ksP8 v => v.setWidth 32
  | .ksLoad key => key.setWidth 32
  | .frEp n => n.setWidth 32
  | .frXor a b => (a ++ b).setWidth 32
  | .frSbox0 n => n.setWidth 32
  | .frSbox1 n => n.setWidth 32
  | .frP4 n => n.setWidth 32
  | .frF sk r => (sk ++ r).setWidth 32
  | .frFk sk b => (sk ++ b).setWidth 32
  | .bcIp b => b.setWidth 32
  | .bcIpinv b => b.setWidth 32
  | .bcSw b => b.setWidth 32
  | .bcEnc b => b.setWidth 32
  | .bcDec b => b.setWidth 32
  | .bcEnck key b => (key ++ b).setWidth 32
  | .bcDeck key b => (key ++ b).setWidth 32
  | .cdT2b c => c.setWidth 32
  | .cdB2t b => b.setWidth 32
  | .cdB64e cnt b0 b1 b2 => (cnt ++ b0 ++ b1 ++ b2).setWidth 32
  | .cdB64d c0 c1 c2 c3 => c0 ++ c1 ++ c2 ++ c3
  | .cdHex b => b.setWidth 32

/-- The command word of a command (R80). -/
def encode (i : Instr) : CmdWord := opByte i ++ argWord i

end Sys2Proof
end

