-- ==== Sys2Proof/Config.lean ====
section
/-!
DEFINITION. What an implementation fixes (spec/00_scope.md R8: "open parameters the model takes as
arguments") and the free values of the model. The parameters are plain data, carried by the state in
one field that no step changes, so that a statement about every state is a statement about every
S-box content and both trace policies (log 2).
-/

namespace Sys2Proof

/-- An S-box: a 4x4 matrix of 2-bit values, indexed by row, then by column (spec/41_feistel_round.md R140). -/
abbrev SBox := Vector (Vector SboxOut 4) 4

/-- The open parameters of the hardware (spec/00_scope.md R8; spec/93_implementation_defined.md I7, I8, I10). -/
structure Params where
  /-- `SBOX_S0`, the contents of S0. -/
  sboxS0 : SBox
  /-- `SBOX_S1`, the contents of S1. -/
  sboxS1 : SBox
  /-- `TRACE_FIRST_ONLY`: only the first block after a key load is traced (spec/42_block_cipher.md R177). -/
  traceFirstOnly : Bool
  /-- `CMD_LATENCY`: a parameter "read by no rule" (I10), so nothing of the model reads it (log 4). -/
  cmdLatency : Nat
deriving DecidableEq, Repr

/-- Free value: whether the n-th racing read, made while a command is in flight, returns the value
after that command (true) or before it (spec/20_memory.md R73; log 5). -/
opaque Config.raceTakesNew : Nat → Bool

/-- Free value: whether the n-th racing read, made while `rst` is 1, returns the register's reset
value (true) or the value it had before (the spec states neither; log 6). -/
opaque Config.rstReadTakesReset : Nat → Bool

end Sys2Proof
end

