-- ==== Sys2Proof/Machine/Bits.lean ====
section
/-!
DEFINITION. The notation primitives of spec/00_scope.md R11 to R13 and the wired tables of R9, with the
default S-box contents of spec/41_feistel_round.md R141.
-/

namespace Sys2Proof.Machine

/-- `v<i>`: the symbol at string position `i`, position 0 the most significant bit (R11). -/
def strBit {n : Nat} (v : BitVec n) (i : Nat) : Bool := v.getMsbD i

/-- `perm(T, n, v)`: output position `i` takes input position `T[i]` (R12). -/
def perm {n m : Nat} (T : Vector (Fin n) m) (v : BitVec n) : BitVec m :=
  T.toList.foldl (fun r (p : Fin n) => r.shiftConcat (strBit v p)) 0#m

/-- `rotl5(h, k)`: circular rotation of a 5-bit half toward position 0 (R13). -/
def rotl5 (h : KeyHalf) (k : Nat) : KeyHalf := (h <<< k) ||| (h >>> (5 - k))

/-- `zext_32(v)` (R13). -/
def zext32 {n : Nat} (v : BitVec n) : Word := v.setWidth 32

/-- `hi4(x) = x[7:4]` (R13). -/
def hi4 (x : Byte) : Half := x.extractLsb' 4 4

/-- `lo4(x) = x[3:0]` (R13). -/
def lo4 (x : Byte) : Half := x.extractLsb' 0 4

/-- P10 (R9). -/
def tableP10 : Vector (Fin 10) 10 := #v[2, 4, 1, 6, 3, 9, 0, 8, 7, 5]

/-- P8 (R9). -/
def tableP8 : Vector (Fin 10) 8 := #v[5, 2, 6, 3, 7, 4, 9, 8]

/-- EP (R9): it duplicates positions, on purpose. -/
def tableEP : Vector (Fin 4) 8 := #v[3, 0, 1, 2, 1, 2, 3, 0]

/-- P4 (R9). -/
def tableP4 : Vector (Fin 4) 4 := #v[1, 3, 2, 0]

/-- IP (R9). -/
def tableIP : Vector (Fin 8) 8 := #v[1, 5, 2, 0, 3, 7, 4, 6]

/-- IP^-1 (R9). -/
def tableIPINV : Vector (Fin 8) 8 := #v[3, 0, 2, 4, 6, 1, 7, 5]

/-- PRESUMED (log 3): the default contents of S0, the published S-DES table (R141). -/
def defaultS0 : SBox := #v[#v[1, 0, 3, 2], #v[3, 2, 1, 0], #v[0, 2, 1, 3], #v[3, 1, 3, 2]]

/-- PRESUMED (log 3): the default contents of S1, the published S-DES table (R141). -/
def defaultS1 : SBox := #v[#v[0, 1, 2, 3], #v[2, 0, 1, 3], #v[3, 0, 1, 0], #v[2, 1, 0, 3]]

/-- The parameters at their defaults (R8). DESIGN CHOICE (log 4): CMD_LATENCY, which no rule reads, is 0. -/
def defaultParams : Params :=
  { sboxS0 := defaultS0, sboxS1 := defaultS1, traceFirstOnly := true, cmdLatency := 0 }

end Sys2Proof.Machine
end

