-- ==== Sys2Proof/Machine/State.lean ====
section
/-!
DEFINITION. The state of simple_des_core as plain data: the register set of spec/10_state.md R32, the
port signals of spec/20_memory.md R60, the parameters of spec/00_scope.md R8, and the host's coming
actions. Each register is held at its "width used" (R32) and seen at 32 bits through the read port, so
that the bits above read as 0 always (log 1).
-/

namespace Sys2Proof.Machine

/-- The STATUS register's fields (spec/10_state.md R34). Its reserved bits have no storage. -/
structure Status where
  /-- STATUS[3:0], the error code of the latest command (R35). -/
  err : BitVec 4
  /-- STATUS[8], a key's schedule is loaded (R37). -/
  kv : Bool
  /-- STATUS[9], the block trace belongs to the current key (R40). -/
  tbv : Bool
  /-- STATUS[16], some command has ended in error (R41). -/
  estk : Bool
deriving DecidableEq, Repr

/-- TKS0..TKS5, the key-schedule trace (spec/10_state.md R38). -/
structure KeyTrace where
  /-- initial key -/
  tks0 : Key
  /-- after P10 -/
  tks1 : Key
  /-- after first shift -/
  tks2 : Key
  /-- K1 -/
  tks3 : Byte
  /-- after second shift -/
  tks4 : Key
  /-- K2 -/
  tks5 : Byte
deriving DecidableEq, Repr

/-- TBK0..TBK8, the block trace (spec/10_state.md R39). -/
structure BlockTrace where
  /-- input block -/
  tbk0 : Byte
  /-- after IP -/
  tbk1 : Byte
  /-- round-1 F -/
  tbk2 : Half
  /-- round-1 XOR -/
  tbk3 : Half
  /-- swap -/
  tbk4 : Byte
  /-- round-2 F -/
  tbk5 : Half
  /-- round-2 XOR -/
  tbk6 : Half
  /-- combine -/
  tbk7 : Byte
  /-- after IP^-1 -/
  tbk8 : Byte
deriving DecidableEq, Repr

/-- What the host can do at the ports (spec/20_memory.md R60; spec/70_reset_and_hazards.md R280, R285). -/
inductive HostAction where
  /-- Present the word and keep it presented until its transfer (R285). -/
  | issue (w : CmdWord)
  /-- Present the word and withdraw it before its transfer (R285), whatever `cmd_ready` is (log 20). -/
  | withdraw (w : CmdWord)
  /-- Wait until `busy` is 0, then read the index (R73). -/
  | read (a : RAddr)
  /-- Read the index without waiting (R73, R289). -/
  | readNow (a : RAddr)
  /-- `rst` rises (R280). -/
  | raiseRst
  /-- `rst` falls (R280). -/
  | dropRst
  /-- Power is lost and comes back (spec/60_exceptions.md R264). -/
  | powerCycle
deriving DecidableEq, Repr

/-- The whole state. -/
structure State where
  /-- RES, the result register (R33). -/
  res : Word
  /-- STATUS (R34). -/
  status : Status
  /-- KEYS, bits [15:0]: K1 in [15:8], K2 in [7:0] (R36). -/
  keys : BitVec 16
  /-- TKS0..TKS5 (R38). -/
  tks : KeyTrace
  /-- TBK0..TBK8 (R39). -/
  tbk : BlockTrace
  /-- The parameters (spec/00_scope.md R8), constants that no step changes (R42; log 2). -/
  params : Params
  /-- The reset input (spec/20_memory.md R60). -/
  rst : Bool
  /-- The command accepted and not yet complete: `busy` says there is one (R60). -/
  inFlight : Option CmdWord
  /-- `rd_addr` of the latest read (R60; log 22). -/
  rdAddr : RAddr
  /-- `rd_data` of the latest read (R60; log 22). -/
  rdData : Word
  /-- The model's own: what the host does next, oldest first (log 9). -/
  host : List HostAction
  /-- The model's own: how many reads have raced, the argument of the free values (log 5, log 6). -/
  nRace : Nat
deriving DecidableEq, Repr

/-- Why a step stops. Both are states with no step of the core (spec/93_implementation_defined.md I14). -/
inductive Fault where
  /-- Raised by `step` when nothing is in flight and the host does nothing more: "a host that never
  issues has no step" (spec/70_reset_and_hazards.md R285). Safe: nothing changes in such a state. -/
  | hostIdle
  /-- Raised by `step` when `rst` is 1 and the host does nothing more than wait for a transfer: while
  `rst` is 1 the core accepts no command (R280). Safe: nothing changes in such a state. -/
  | heldInReset
deriving DecidableEq, Repr

/-- Why a command has no meaning. No command of this model is refused. -/
inductive Refusal where
  /-- Raised by an arm of `exec` that has no meaning yet, and by no arm of this model. Safe. -/
  | notModelled (mnemonic : String)
deriving DecidableEq, Repr

/-- STATUS after reset (spec/10_state.md R47). -/
def Status.reset : Status := { err := 0#4, kv := false, tbv := false, estk := false }

/-- TKS0..TKS5 after reset (R47). -/
def KeyTrace.reset : KeyTrace :=
  { tks0 := 0#10, tks1 := 0#10, tks2 := 0#10, tks3 := 0#8, tks4 := 0#10, tks5 := 0#8 }

/-- TBK0..TBK8 after reset (R47). -/
def BlockTrace.reset : BlockTrace :=
  { tbk0 := 0#8, tbk1 := 0#8, tbk2 := 0#4, tbk3 := 0#4, tbk4 := 0#8, tbk5 := 0#4, tbk6 := 0#4, tbk7 := 0#8, tbk8 := 0#8 }

/-- The machine right after reset (spec/10_state.md R47; spec/70_reset_and_hazards.md R280): every
register 0, `rst` low, nothing in flight. The parameters stand at their defaults (log 3, log 4), and the
port samples and the model's own fields as log 9 and log 12 say. -/
def State.reset : State :=
  { res := 0#32, status := Status.reset, keys := 0#16, tks := KeyTrace.reset, tbk := BlockTrace.reset,
    params := defaultParams, rst := false, inFlight := none, rdAddr := 0#8, rdData := 0#32, host := [], nRace := 0 }

end Sys2Proof.Machine
end

