-- ==== Sys2Proof/Machine/Flags.lean ====
section
/-!
DEFINITION. STATUS: its error codes (spec/60_exceptions.md R250), its 32-bit layout (spec/10_state.md
R34), and every way a command changes a field of it (R35, R37, R40, R41). No other flag exists (R44).
-/

namespace Sys2Proof.Machine

/-- The number of an error code (R250). -/
def errNumber : ErrCode → BitVec 4
  | .illegalOp => 1#4
  | .reservedNonzero => 2#4
  | .keyNotLoaded => 3#4
  | .charRange => 4#4
  | .base64Decode => 5#4
  | .badCount => 6#4
  | .blockSize => 7#4

/-- STATUS as the read port shows it: ERR in [3:0], KV in [8], TBV in [9], ESTK in [16], every other
bit 0 (R34). -/
def statusWord (st : Status) : Word :=
  0#15 ++ BitVec.ofBool st.estk ++ 0#6 ++ BitVec.ofBool st.tbv ++ BitVec.ofBool st.kv ++ 0#4 ++ st.err

/-- Success: ERR is 0, ESTK as before (R35, R41). -/
def statusOk (st : Status) : Status := { st with err := 0#4 }

/-- Error: ERR is the code and ESTK is 1 (R35, R41). -/
def statusError (e : ErrCode) (st : Status) : Status := { st with err := errNumber e, estk := true }

/-- A key is loaded: KV is 1 (R37), and TBV is 0, so that a block trace on view always belongs to the
key on view (R40). -/
def statusKeyLoaded (st : Status) : Status := { st with kv := true, tbv := false }

/-- A block trace is written: TBV is 1 (R40). -/
def statusTraceWritten (st : Status) : Status := { st with tbv := true }

end Sys2Proof.Machine
end

