-- ==== Sys2Proof/Machine/Operands.lean ====
section
/-!
DEFINITION. The operands a command takes from a register (spec/30_encoding.md R83: only those its rule
names), and the packing of several elements into one word, first element most significant
(spec/20_memory.md R66).
-/

namespace Sys2Proof.Machine

/-- K1 = KEYS[15:8] (spec/10_state.md R36). -/
def keyOne (s : State) : Byte := s.keys.extractLsb' 8 8

/-- K2 = KEYS[7:0] (R36). -/
def keyTwo (s : State) : Byte := s.keys.extractLsb' 0 8

/-- Two bytes packed, the first most significant: `K1 ++ K2`, `hi ++ lo` (R66). -/
def packTwo (x y : Byte) : BitVec 16 := x ++ y

/-- Three bytes packed: `b0 ++ b1 ++ b2` (R66). -/
def packThree (x y z : Byte) : BitVec 24 := x ++ y ++ z

/-- Four bytes packed: `c0 ++ c1 ++ c2 ++ c3` (R66). -/
def packFour (x y z u : Byte) : Word := x ++ y ++ z ++ u

end Sys2Proof.Machine
end

