-- ==== Sys2Proof/Machine/Ops.lean ====
section
/-!
DEFINITION. The named operations over the registers: the two ends of a command (spec/60_exceptions.md
R251, R252), the register writes that commands share, the clearing of every register (spec/10_state.md
R47), and the read space (spec/20_memory.md R61). There is no trap entry and no trap return (R254, R255):
`raiseError` is the whole of what an error does.
-/

namespace Sys2Proof.Machine

/-- Success (R251): RES holds the result, ERR is 0, ESTK is unchanged. -/
def succeed (r : Word) (s : State) : State := { s with res := r, status := statusOk s.status }

/-- Error (R252): RES is 0, ERR is the code, ESTK is 1, and nothing else is written. -/
def raiseError (e : ErrCode) (s : State) : State := { s with res := 0#32, status := statusError e s.status }

/-- The writes of a key load (spec/40_key_schedule.md R116): KEYS, TKS0..TKS5, KV and TBV. -/
def writeKey (keys : BitVec 16) (t : KeyTrace) (s : State) : State :=
  { s with keys := keys, tks := t, status := statusKeyLoaded s.status }

/-- The trace write (spec/42_block_cipher.md R177): with TRACE_FIRST_ONLY, a trace that stands is kept. -/
def writeTrace (t : BlockTrace) (s : State) : State :=
  if s.params.traceFirstOnly && s.status.tbv then s
  else { s with tbk := t, status := statusTraceWritten s.status }

/-- Every register of spec/10_state.md R32 at its reset value (R47); the parameters and the ports as
before (spec/70_reset_and_hazards.md R280, spec/44_control.md R241). -/
def clearRegs (s : State) : State :=
  { s with res := 0#32, status := Status.reset, keys := 0#16, tks := KeyTrace.reset, tbk := BlockTrace.reset }

/-- The read space (spec/20_memory.md R61): the register at an index, zero-extended to 32 bits, and 0
at every index that holds none. -/
def readReg (s : State) (a : RAddr) : Word :=
  match a with
  | 0x00#8 => s.res
  | 0x01#8 => statusWord s.status
  | 0x02#8 => zext32 s.keys
  | 0x10#8 => zext32 s.tks.tks0
  | 0x11#8 => zext32 s.tks.tks1
  | 0x12#8 => zext32 s.tks.tks2
  | 0x13#8 => zext32 s.tks.tks3
  | 0x14#8 => zext32 s.tks.tks4
  | 0x15#8 => zext32 s.tks.tks5
  | 0x18#8 => zext32 s.tbk.tbk0
  | 0x19#8 => zext32 s.tbk.tbk1
  | 0x1A#8 => zext32 s.tbk.tbk2
  | 0x1B#8 => zext32 s.tbk.tbk3
  | 0x1C#8 => zext32 s.tbk.tbk4
  | 0x1D#8 => zext32 s.tbk.tbk5
  | 0x1E#8 => zext32 s.tbk.tbk6
  | 0x1F#8 => zext32 s.tbk.tbk7
  | 0x20#8 => zext32 s.tbk.tbk8
  | _ => 0#32

end Sys2Proof.Machine
end

