-- ==== Sys2Proof/Machine/Feistel.lean ====
section
/-!
DEFINITION. The units feistel_round and sbox_rom (spec/41_feistel_round.md). The S-boxes are parameters
and are read only through `sbox` (R142).
-/

namespace Sys2Proof.Machine

/-- `SBOX(S, n)`: row from the outer bits, column from the inner bits, the first-named bit of each pair
the more significant (R142). -/
def sbox (S : SBox) (n : Half) : SboxOut :=
  let row := BitVec.ofBool (strBit n 0) ++ BitVec.ofBool (strBit n 3)
  let col := BitVec.ofBool (strBit n 1) ++ BitVec.ofBool (strBit n 2)
  (S.get row.toFin).get col.toFin

/-- The round function `F(r, sk)` (R143). -/
def roundF (p : Params) (r : Half) (sk : Byte) : Half :=
  let x := perm tableEP r ^^^ sk
  perm tableP4 (sbox p.sboxS0 (hi4 x) ++ sbox p.sboxS1 (lo4 x))

/-- `fk(b, sk)`: one round, the right half passed through (R150). -/
def fk (p : Params) (b sk : Byte) : Byte := (hi4 b ^^^ roundF p (lo4 b) sk) ++ lo4 b

/-- FR.EP (R144). -/
def execFrEp (n : Half) (s : State) : Host.Outcome State Fault Refusal := .next (succeed (zext32 (perm tableEP n)) s)

/-- FR.XOR (R145). -/
def execFrXor (a b : Byte) (s : State) : Host.Outcome State Fault Refusal := .next (succeed (zext32 (a ^^^ b)) s)

/-- FR.SBOX0 (R146). -/
def execFrSbox0 (n : Half) (s : State) : Host.Outcome State Fault Refusal :=
  .next (succeed (zext32 (sbox s.params.sboxS0 n)) s)

/-- FR.SBOX1 (R147). -/
def execFrSbox1 (n : Half) (s : State) : Host.Outcome State Fault Refusal :=
  .next (succeed (zext32 (sbox s.params.sboxS1 n)) s)

/-- FR.P4 (R148). -/
def execFrP4 (n : Half) (s : State) : Host.Outcome State Fault Refusal := .next (succeed (zext32 (perm tableP4 n)) s)

/-- FR.F (R149). -/
def execFrF (sk : Byte) (r : Half) (s : State) : Host.Outcome State Fault Refusal :=
  .next (succeed (zext32 (roundF s.params r sk)) s)

/-- FR.FK (R150). -/
def execFrFk (sk b : Byte) (s : State) : Host.Outcome State Fault Refusal :=
  .next (succeed (zext32 (fk s.params b sk)) s)

end Sys2Proof.Machine
end

