-- ==== Sys2Proof/Machine/KeySchedule.lean ====
section
/-!
DEFINITION. The unit des_key_schedule (spec/40_key_schedule.md).
-/

namespace Sys2Proof.Machine

/-- `ls(v, k)`: each 5-bit half rotated by `k`, no bit crossing between them (R111). -/
def ls (v : Key) (k : Nat) : Key := rotl5 (v.extractLsb' 5 5) k ++ rotl5 (v.extractLsb' 0 5) k

/-- The five values of the schedule (R110). -/
structure Schedule where
  p10 : Key
  h1 : Key
  k1 : Byte
  h2 : Key
  k2 : Byte
deriving DecidableEq, Repr

/-- `ks(key)` (R110). -/
def ks (key : Key) : Schedule :=
  let p10 := perm tableP10 key
  let h1 := ls p10 1
  let h2 := ls h1 2
  { p10 := p10, h1 := h1, k1 := perm tableP8 h1, h2 := h2, k2 := perm tableP8 h2 }

/-- TKS0..TKS5 of a key (spec/10_state.md R38; R116). -/
def keyTrace (key : Key) : KeyTrace :=
  { tks0 := key, tks1 := (ks key).p10, tks2 := (ks key).h1, tks3 := (ks key).k1, tks4 := (ks key).h2, tks5 := (ks key).k2 }

/-- `K1 ++ K2` of a key (R116). -/
def subkeys (key : Key) : BitVec 16 := packTwo (ks key).k1 (ks key).k2

/-- KS.P10 (R112). -/
def execKsP10 (v : Key) (s : State) : Host.Outcome State Fault Refusal := .next (succeed (zext32 (perm tableP10 v)) s)

/-- KS.ROT1 (R113). -/
def execKsRot1 (v : Key) (s : State) : Host.Outcome State Fault Refusal := .next (succeed (zext32 (ls v 1)) s)

/-- KS.ROT2 (R114). -/
def execKsRot2 (v : Key) (s : State) : Host.Outcome State Fault Refusal := .next (succeed (zext32 (ls v 2)) s)

/-- KS.P8 (R115). -/
def execKsP8 (v : Key) (s : State) : Host.Outcome State Fault Refusal := .next (succeed (zext32 (perm tableP8 v)) s)

/-- KS.LOAD (R116). -/
def execKsLoad (key : Key) (s : State) : Host.Outcome State Fault Refusal :=
  .next (succeed (zext32 (subkeys key)) (writeKey (subkeys key) (keyTrace key) s))

end Sys2Proof.Machine
end

