-- ==== Sys2Proof/Machine/BlockCipher.lean ====
section
/-!
DEFINITION. The unit simple_des_block_cipher (spec/42_block_cipher.md).
-/

namespace Sys2Proof.Machine

/-- `lo4(b) ++ hi4(b)`: the two halves exchanged (R173). -/
def swapHalves (b : Byte) : Byte := lo4 b ++ hi4 b

/-- The block transform `blk(b, rk1, rk2)` (R174), with its nine values in the order TBK0..TBK8 holds
them (spec/10_state.md R39). After the second round the halves are not swapped. -/
def blk (p : Params) (b rk1 rk2 : Byte) : BlockTrace :=
  let ip := perm tableIP b
  let left := hi4 ip
  let right := lo4 ip
  let f1 := roundF p right rk1
  let newL := left ^^^ f1
  let f2 := roundF p newL rk2
  let finL := right ^^^ f2
  let comb := finL ++ newL
  { tbk0 := b, tbk1 := ip, tbk2 := f1, tbk3 := newL, tbk4 := right ++ newL, tbk5 := f2, tbk6 := finL, tbk7 := comb,
    tbk8 := perm tableIPINV comb }

/-- BC.ENC and BC.DEC once their round keys are chosen: the key check, the trace, the result (R175, R176). -/
def cryptLoaded (b rk1 rk2 : Byte) (s : State) : State :=
  if s.status.kv then
    succeed (zext32 (blk s.params b rk1 rk2).tbk8) (writeTrace (blk s.params b rk1 rk2) s)
  else raiseError .keyNotLoaded s

/-- BC.IP (R171). -/
def execBcIp (b : Byte) (s : State) : Host.Outcome State Fault Refusal := .next (succeed (zext32 (perm tableIP b)) s)

/-- BC.IPINV (R172). -/
def execBcIpinv (b : Byte) (s : State) : Host.Outcome State Fault Refusal :=
  .next (succeed (zext32 (perm tableIPINV b)) s)

/-- BC.SW (R173). -/
def execBcSw (b : Byte) (s : State) : Host.Outcome State Fault Refusal := .next (succeed (zext32 (swapHalves b)) s)

/-- BC.ENC (R175): K1 first, then K2. -/
def execBcEnc (b : Byte) (s : State) : Host.Outcome State Fault Refusal := .next (cryptLoaded b (keyOne s) (keyTwo s) s)

/-- BC.DEC (R176): K2 first, then K1. -/
def execBcDec (b : Byte) (s : State) : Host.Outcome State Fault Refusal := .next (cryptLoaded b (keyTwo s) (keyOne s) s)

/-- BC.ENCK (R178): the key is in the command, and no state but RES and ERR is written. -/
def execBcEnck (key : Key) (b : Byte) (s : State) : Host.Outcome State Fault Refusal :=
  .next (succeed (zext32 (blk s.params b (ks key).k1 (ks key).k2).tbk8) s)

/-- BC.DECK (R179). -/
def execBcDeck (key : Key) (b : Byte) (s : State) : Host.Outcome State Fault Refusal :=
  .next (succeed (zext32 (blk s.params b (ks key).k2 (ks key).k1).tbk8) s)

end Sys2Proof.Machine
end

