-- ==== Sys2Proof/Machine/Codec.lean ====
section
/-!
DEFINITION. The unit bitstring_codec (spec/43_codec.md): characters, bytes, Base64 groups and hex digits.
-/

namespace Sys2Proof.Machine

/-- The pad character `=` (R203). -/
def padChar : Byte := 0x3D#8

/-- `enc64(s)`: the character code of a sextet (R203). -/
def enc64 (x : BitVec 6) : Byte :=
  let n := x.toNat
  if n ≤ 25 then BitVec.ofNat 8 (0x41 + n)
  else if n ≤ 51 then BitVec.ofNat 8 (0x61 + (n - 26))
  else if n ≤ 61 then BitVec.ofNat 8 (0x30 + (n - 52))
  else if n = 62 then 0x2B#8
  else 0x2F#8

/-- `dec64(c)`: the sextet of a character code, if it has one (R203). -/
def dec64 (c : Byte) : Option (BitVec 6) :=
  let n := c.toNat
  if 0x41 ≤ n ∧ n ≤ 0x5A then some (BitVec.ofNat 6 (n - 0x41))
  else if 0x61 ≤ n ∧ n ≤ 0x7A then some (BitVec.ofNat 6 (26 + (n - 0x61)))
  else if 0x30 ≤ n ∧ n ≤ 0x39 then some (BitVec.ofNat 6 (52 + (n - 0x30)))
  else if n = 0x2B then some 62#6
  else if n = 0x2F then some 63#6
  else none

/-- `b64e_group` (R204), for a count of 1, 2 or 3. -/
def b64eGroup (cnt : BitVec 2) (b0 b1 b2 : Byte) : Word :=
  let w := packThree b0 b1 b2
  let c0 := enc64 (w.extractLsb' 18 6)
  let c1 := enc64 (w.extractLsb' 12 6)
  let c2 := enc64 (w.extractLsb' 6 6)
  let c3 := enc64 (w.extractLsb' 0 6)
  if cnt = 3#2 then packFour c0 c1 c2 c3
  else if cnt = 2#2 then packFour c0 c1 c2 padChar
  else packFour c0 c1 padChar padChar

/-- What a Base64 group decodes to: how many bytes, and the bytes, 0 beyond the count (R206). -/
structure ByteGroup where
  cnt : BitVec 2
  b0 : Byte
  b1 : Byte
  b2 : Byte
deriving DecidableEq, Repr

/-- The first `cnt` bytes of the 24 bits of four sextets; the bits beyond them are discarded (R206). -/
def keepBytes (cnt : BitVec 2) (v0 v1 v2 v3 : BitVec 6) : ByteGroup :=
  let w : BitVec 24 := v0 ++ v1 ++ v2 ++ v3
  { cnt := cnt, b0 := w.extractLsb' 16 8,
    b1 := if 2 ≤ cnt.toNat then w.extractLsb' 8 8 else 0#8,
    b2 := if cnt = 3#2 then w.extractLsb' 0 8 else 0#8 }

/-- `b64d_group` (R206): `none` is the rule's `fail`. -/
def b64dGroup (c0 c1 c2 c3 : Byte) : Option ByteGroup :=
  match dec64 c0, dec64 c1 with
  | some v0, some v1 =>
    if c2 = padChar then
      if c3 = padChar then some (keepBytes 1#2 v0 v1 0#6 0#6) else none
    else
      match dec64 c2 with
      | none => none
      | some v2 =>
        if c3 = padChar then some (keepBytes 2#2 v0 v1 v2 0#6)
        else
          match dec64 c3 with
          | none => none
          | some v3 => some (keepBytes 3#2 v0 v1 v2 v3)
  | _, _ => none

/-- `hx(d)`: an uppercase hex digit (R208). -/
def hexDigit (d : Half) : Byte :=
  if d.toNat ≤ 9 then BitVec.ofNat 8 (0x30 + d.toNat) else BitVec.ofNat 8 (0x41 + (d.toNat - 10))

/-- A byte beyond the count of a group is nonzero (R205). -/
def tailNonzero (cnt : BitVec 2) (b1 b2 : Byte) : Bool :=
  (cnt == 1#2 && (b1 != 0#8 || b2 != 0#8)) || (cnt == 2#2 && b2 != 0#8)

/-- CD.T2B (R201). -/
def execCdT2b (c : CharCode) (s : State) : Host.Outcome State Fault Refusal :=
  if c.toNat ≤ 0xFF then .next (succeed (zext32 (c.extractLsb' 0 8)) s) else .next (raiseError .charRange s)

/-- CD.B2T (R202). -/
def execCdB2t (b : Byte) (s : State) : Host.Outcome State Fault Refusal :=
  .next (succeed (zext32 (b.setWidth 16)) s)

/-- CD.B64E (R205): the count is checked before the bytes beyond it. -/
def execCdB64e (cnt : BitVec 2) (b0 b1 b2 : Byte) (s : State) : Host.Outcome State Fault Refusal :=
  if cnt = 0#2 then .next (raiseError .badCount s)
  else if tailNonzero cnt b1 b2 then .next (raiseError .reservedNonzero s)
  else .next (succeed (b64eGroup cnt b0 b1 b2) s)

/-- CD.B64D (R207). -/
def execCdB64d (c0 c1 c2 c3 : Byte) (s : State) : Host.Outcome State Fault Refusal :=
  match b64dGroup c0 c1 c2 c3 with
  | none => .next (raiseError .base64Decode s)
  | some g => .next (succeed (zext32 (g.cnt ++ packThree g.b0 g.b1 g.b2)) s)

/-- CD.HEX (R208). -/
def execCdHex (b : Byte) (s : State) : Host.Outcome State Fault Refusal :=
  .next (succeed (zext32 (packTwo (hexDigit (hi4 b)) (hexDigit (lo4 b)))) s)

end Sys2Proof.Machine
end

