-- ==== Sys2Proof/Machine/Control.lean ====
section
/-!
DEFINITION. The control commands (spec/44_control.md).
-/

namespace Sys2Proof.Machine

/-- CTL.NOP (R240). -/
def execCtlNop (s : State) : Host.Outcome State Fault Refusal := .next (succeed 0#32 s)

/-- CTL.CLR (R241): every register at its reset value. -/
def execCtlClr (s : State) : Host.Outcome State Fault Refusal := .next (clearRegs s)

end Sys2Proof.Machine
end

