-- ==== Sys2Proof/Machine/Dispatch.lean ====
section
/-! DEFINITION. Which meaning each command has: one arm per constructor of Instr. -/

namespace Sys2Proof.Machine

def exec (i : Instr) (s : State) : Host.Outcome State Fault Refusal :=
  match i with
  | .ctlNop => Sys2Proof.Machine.execCtlNop s
  | .ctlClr => Sys2Proof.Machine.execCtlClr s
  | .ksP10 v => Sys2Proof.Machine.execKsP10 v s
  | .ksRot1 v => Sys2Proof.Machine.execKsRot1 v s
  | .ksRot2 v => Sys2Proof.Machine.execKsRot2 v s
  | .ksP8 v => Sys2Proof.Machine.execKsP8 v s
  | .ksLoad key => Sys2Proof.Machine.execKsLoad key s
  | .frEp n => Sys2Proof.Machine.execFrEp n s
  | .frXor a b => Sys2Proof.Machine.execFrXor a b s
  | .frSbox0 n => Sys2Proof.Machine.execFrSbox0 n s
  | .frSbox1 n => Sys2Proof.Machine.execFrSbox1 n s
  | .frP4 n => Sys2Proof.Machine.execFrP4 n s
  | .frF sk r => Sys2Proof.Machine.execFrF sk r s
  | .frFk sk b => Sys2Proof.Machine.execFrFk sk b s
  | .bcIp b => Sys2Proof.Machine.execBcIp b s
  | .bcIpinv b => Sys2Proof.Machine.execBcIpinv b s
  | .bcSw b => Sys2Proof.Machine.execBcSw b s
  | .bcEnc b => Sys2Proof.Machine.execBcEnc b s
  | .bcDec b => Sys2Proof.Machine.execBcDec b s
  | .bcEnck key b => Sys2Proof.Machine.execBcEnck key b s
  | .bcDeck key b => Sys2Proof.Machine.execBcDeck key b s
  | .cdT2b c => Sys2Proof.Machine.execCdT2b c s
  | .cdB2t b => Sys2Proof.Machine.execCdB2t b s
  | .cdB64e cnt b0 b1 b2 => Sys2Proof.Machine.execCdB64e cnt b0 b1 b2 s
  | .cdB64d c0 c1 c2 c3 => Sys2Proof.Machine.execCdB64d c0 c1 c2 c3 s
  | .cdHex b => Sys2Proof.Machine.execCdHex b s

end Sys2Proof.Machine
end

