-- ==== Sys2Proof/Machine/Run.lean ====
section
/-!
DEFINITION. Running a command word: decoding it (spec/30_encoding.md R87), then its meaning, or the
error of a word that does not decode (spec/60_exceptions.md R252).
-/

namespace Sys2Proof.Machine

/-- A command word run to its completion. -/
def runWord (w : CmdWord) (s : State) : Host.Outcome State Fault Refusal :=
  match decode w with
  | .ok i => exec i s
  | .error e => .next (raiseError e s)

/-- The state a completing outcome leaves, or the state before where there is none. -/
def afterOutcome (o : Host.Outcome State Fault Refusal) (s : State) : State :=
  match o with
  | .next t => t
  | .fault _ => s
  | .refused _ => s

/-- The state after a command word. -/
def afterWord (w : CmdWord) (s : State) : State := afterOutcome (runWord w s) s

/-- The state after a command. -/
def afterCommand (i : Instr) (s : State) : State := afterOutcome (exec i s) s

end Sys2Proof.Machine
end

