-- ==== Sys2Proof/Machine/Ports.lean ====
section
/-!
DEFINITION. The ports (spec/20_memory.md R60), what each host action does at them, and which event comes
next: a host action that need not wait, else the completion of the command in flight, else nothing.
-/

namespace Sys2Proof.Machine

/-- `busy`: 1 from the acceptance of a command until its completion (R60). -/
def busy (s : State) : Bool := s.inFlight.isSome

/-- `cmd_ready`: 0 while `rst` is 1 or `busy` is 1 (R60). -/
def cmdReady (s : State) : Bool := !s.rst && !busy s

/-- `cmd_word` while `cmd_valid` is 1: the word the host's next action presents (R60, R285), one it will
withdraw included (log 20). -/
def cmdPresented (s : State) : Option CmdWord :=
  match s.host with
  | .issue w :: _ => some w
  | .withdraw w :: _ => some w
  | _ => none

/-- `cmd_valid` (R60). -/
def cmdValid (s : State) : Bool := (cmdPresented s).isSome

/-- A read of index `a` returns `v`, and no register changes (R62). DESIGN CHOICE (log 22): the port signals
hold both until the next read. -/
def latchRead (a : RAddr) (v : Word) (s : State) : State := { s with rdAddr := a, rdData := v }

/-- One of two values the spec does not choose between. -/
def freeChoice (takesNew : Bool) (new old : Word) : Word := if takesNew then new else old

/-- The value a read of index `a` returns (R73): with a command in flight, the value before it or after
it; while `rst` is 1, the value before the reset or the reset value (log 6); else the register's value. -/
def readValue (a : RAddr) (s : State) : Word :=
  match s.inFlight with
  | some w => freeChoice (Config.raceTakesNew s.nRace) (readReg (afterWord w s) a) (readReg s a)
  | none =>
    if s.rst then freeChoice (Config.rstReadTakesReset s.nRace) (readReg (clearRegs s) a) (readReg s a)
    else readReg s a

/-- A read races when a command is in flight or `rst` is 1. -/
def readRaces (s : State) : Bool := busy s || s.rst

/-- A read of index `a`; a racing one uses up its free value. -/
def sampleRead (a : RAddr) (s : State) : State :=
  { latchRead a (readValue a s) s with nRace := if readRaces s then s.nRace + 1 else s.nRace }

/-- `rst` rises: the command in flight is abandoned (spec/70_reset_and_hazards.md R280). -/
def rstRise (s : State) : State := { s with rst := true, inFlight := none }

/-- `rst` falls: every register holds its reset value (R280). Without a fall nothing changes. -/
def rstFall (s : State) : State := if s.rst then { clearRegs s with rst := false } else s

/-- Power is lost and comes back: "power-up is a reset" (spec/60_exceptions.md R264; log 17). DESIGN CHOICE
(log 22): `rd_addr`, `rd_data` and `nRace`, to which the spec gives no value after power-up, stand as before. -/
def powerUp (s : State) : State := rstFall (rstRise s)

/-- What a host action does, or `none` while it must wait. DESIGN CHOICE (log 20): a `withdraw` makes no
transfer in any state, `cmd_ready` = 1 included; a word that is presented and transfers is an `issue`. -/
def hostAct (a : HostAction) (s : State) : Option State :=
  match a with
  | .issue w => if cmdReady s then some { s with inFlight := some w } else none
  | .withdraw _ => some s
  | .read x => if busy s then none else some (sampleRead x s)
  | .readNow x => some (sampleRead x s)
  | .raiseRst => some (rstRise s)
  | .dropRst => some (rstFall s)
  | .powerCycle => some (powerUp s)

/-- The core's own event: the command in flight completes, all its writes in this one step
(spec/00_scope.md R6). With none in flight the core does nothing on its own (R285). -/
def complete (s : State) : Host.Outcome State Fault Refusal :=
  match s.inFlight with
  | some w => runWord w { s with inFlight := none }
  | none => .fault (if s.rst then .heldInReset else .hostIdle)

/-- The next event: the host's next action when it need not wait, else the core's own (log 9). -/
def nextEvent (s : State) : Host.Outcome State Fault Refusal :=
  match s.host with
  | [] => complete s
  | a :: rest =>
    match hostAct a { s with host := rest } with
    | some t => .next t
    | none => complete s

/-- The word in flight and nothing of the host before its completion (log 9). -/
def placeWord (w : CmdWord) (s : State) : State := { s with rst := false, inFlight := some w, host := [] }

end Sys2Proof.Machine
end

