-- ==== Sys2Proof/Machine/Step.lean ====
section
/-! DEFINITION. One step, and the placing of a command where the next step runs it. -/

namespace Sys2Proof.Machine

/-- One step: the next event at the ports or in the core. -/
def step (s : State) : Host.Outcome State Fault Refusal := Sys2Proof.Machine.nextEvent s

/-- `s` with the command word in flight, so that the next step completes it (log 9, log 14). -/
def State.withFetchWord (s : State) (nbits w : Nat) : State :=
  Sys2Proof.Machine.placeWord (Sys2Proof.tableCmdWord nbits w) s

end Sys2Proof.Machine
end

