-- ==== Sys2Proof/Machine/Assembler.lean ====
section
/-!
DEFINITION. The assembler syntax (spec/30_encoding.md R88), from a mnemonic and the texts of its
operands to one command; no mnemonic is a pseudo-instruction (R89). Where one operand's text ends and
the next begins is not modelled, since R88 gives no lexical grammar (log 16).
-/

namespace Sys2Proof.Machine

/-- What one operand's text says. -/
inductive Operand where
  /-- A decimal, `0x` or `0b` literal. -/
  | number (n : Nat)
  /-- A character literal, its code. -/
  | character (code : Nat)
  /-- A string literal, its characters' codes. -/
  | string (codes : List Nat)
deriving DecidableEq, Repr

/-- The value of one digit in a base up to 16. -/
def digitValue (base : Nat) (c : Char) : Option Nat :=
  let n := c.toNat
  let v := if 0x30 ≤ n ∧ n ≤ 0x39 then n - 0x30
    else if 0x41 ≤ n ∧ n ≤ 0x46 then n - 0x41 + 10
    else if 0x61 ≤ n ∧ n ≤ 0x66 then n - 0x61 + 10
    else base
  if v < base then some v else none

/-- The value of a run of digits, most significant first. -/
def digitsFrom (base : Nat) : Nat → List Char → Option Nat
  | acc, [] => some acc
  | acc, c :: cs =>
    match digitValue base c with
    | some d => digitsFrom base (acc * base + d) cs
    | none => none

/-- A run of digits with at least one digit. -/
def digits (base : Nat) (cs : List Char) : Option Operand :=
  if cs.isEmpty then none else (digitsFrom base 0 cs).map .number

/-- The characters up to a closing double quote that ends the text. DESIGN CHOICE (log 16): there are no
escapes, and a text with a further double quote before its end is no literal. -/
def quoted : List Char → Option (List Nat)
  | [] => none
  | [c] => if c = '"' then some [] else none
  | c :: cs => if c = '"' then none else (quoted cs).map (c.toNat :: ·)

/-- One operand's text: a decimal, `0x` hex or `0b` binary literal, a character literal, a string literal (R88).
DESIGN CHOICE (log 16): there are no escapes, so a character literal holds exactly one character, and that
one may be a quote of either kind. -/
def readOperand : List Char → Option Operand
  | '0' :: 'x' :: cs => digits 16 cs
  | '0' :: 'b' :: cs => digits 2 cs
  | ['\'', c, '\''] => some (.character c.toNat)
  | '"' :: cs => (quoted cs).map .string
  | cs => digits 10 cs

/-- A number as a field of width `n`: one that does not fit is an error, never truncated. -/
def fit (n : Nat) : Operand → Option (BitVec n)
  | .number v => if v < 2 ^ n then some (BitVec.ofNat n v) else none
  | _ => none

/-- An operand of format C16: a number, or a character literal. -/
def fitChar : Operand → Option CharCode
  | .character v => fit 16 (.number v)
  | x => fit 16 x

/-- Format N. -/
def asmNone (i : Instr) : List Operand → Option Instr
  | [] => some i
  | _ => none

/-- Formats with one field. -/
def asmOne {n : Nat} (f : BitVec n → Instr) : List Operand → Option Instr
  | [x] => (fit n x).map f
  | _ => none

/-- Formats with two fields, most significant first. -/
def asmTwo {n m : Nat} (f : BitVec n → BitVec m → Instr) : List Operand → Option Instr
  | [x, y] =>
    match fit n x, fit m y with
    | some a, some b => some (f a b)
    | _, _ => none
  | _ => none

/-- Format C16. -/
def asmChar : List Operand → Option Instr
  | [x] => (fitChar x).map .cdT2b
  | _ => none

/-- Four fields, the first of width `n`, the others bytes. -/
def asmFour {n : Nat} (f : BitVec n → Byte → Byte → Byte → Instr) (x y z u : Operand) : Option Instr :=
  match fit n x, fit 8 y, fit 8 z, fit 8 u with
  | some a, some b, some c, some d => some (f a b c d)
  | _, _, _, _ => none

/-- Format G3: omitted trailing bytes are 0. -/
def asmGroup : List Operand → Option Instr
  | [x] => asmFour .cdB64e x (.number 0) (.number 0) (.number 0)
  | [x, y] => asmFour .cdB64e x y (.number 0) (.number 0)
  | [x, y, z] => asmFour .cdB64e x y z (.number 0)
  | [x, y, z, u] => asmFour .cdB64e x y z u
  | _ => none

/-- Format C4: four codes, or a string literal of four characters. -/
def asmCodes : List Operand → Option Instr
  | [.string [a, b, c, d]] => asmFour .cdB64d (.number a) (.number b) (.number c) (.number d)
  | [x, y, z, u] => asmFour .cdB64d x y z u
  | _ => none

/-- A character in upper case: mnemonics may be written in either case (R88), and letter by letter (log 16). -/
def upper (c : Char) : Char := if 0x61 ≤ c.toNat ∧ c.toNat ≤ 0x7A then Char.ofNat (c.toNat - 0x20) else c

/-- The operand reader of an OP value: the format's fields in the order of R82. -/
def asmOperands (op : Byte) (xs : List Operand) : Option Instr :=
  match op with
  | 0x00#8 => asmNone .ctlNop xs
  | 0x01#8 => asmNone .ctlClr xs
  | 0x10#8 => asmOne .ksP10 xs
  | 0x11#8 => asmOne .ksRot1 xs
  | 0x12#8 => asmOne .ksRot2 xs
  | 0x13#8 => asmOne .ksP8 xs
  | 0x14#8 => asmOne .ksLoad xs
  | 0x20#8 => asmOne .frEp xs
  | 0x21#8 => asmTwo .frXor xs
  | 0x22#8 => asmOne .frSbox0 xs
  | 0x23#8 => asmOne .frSbox1 xs
  | 0x24#8 => asmOne .frP4 xs
  | 0x25#8 => asmTwo .frF xs
  | 0x26#8 => asmTwo .frFk xs
  | 0x30#8 => asmOne .bcIp xs
  | 0x31#8 => asmOne .bcIpinv xs
  | 0x32#8 => asmOne .bcSw xs
  | 0x33#8 => asmOne .bcEnc xs
  | 0x34#8 => asmOne .bcDec xs
  | 0x35#8 => asmTwo .bcEnck xs
  | 0x36#8 => asmTwo .bcDeck xs
  | 0x40#8 => asmChar xs
  | 0x41#8 => asmOne .cdB2t xs
  | 0x42#8 => asmGroup xs
  | 0x43#8 => asmCodes xs
  | 0x44#8 => asmOne .cdHex xs
  | _ => none

/-- The OP value of a mnemonic, in upper or lower case (R85, R88). -/
def asmOp (name : List Char) : Option Byte :=
  (opRows.find? fun r => r.mnemonic.toList == name.map upper).map OpRow.op

/-- A mnemonic and its operands' texts as a command (R88). -/
def assemble (name : List Char) (operands : List (List Char)) : Option Instr :=
  match asmOp name, operands.mapM readOperand with
  | some op, some xs => asmOperands op xs
  | _, _ => none

end Sys2Proof.Machine
end

