-- ==== Sys2Proof/Machine/Message.lean ====
section
/-!
DEFINITION. The host's whole-message procedures (spec/43_codec.md R209), as sequences of commands run on
the core, with the checks the host makes itself (spec/70_reset_and_hazards.md R283; spec/60_exceptions.md
R256; spec/43_codec.md R211). They are not commands of the core (spec/00_scope.md R5; log 15).
-/

namespace Sys2Proof.Machine

/-- The typed errors of a whole-message procedure (spec/60_exceptions.md R256). -/
inductive MessageError where
  /-- InvalidKeyFormat: the key string is not ten characters 0 or 1. -/
  | invalidKeyFormat
  /-- A character code above 255 (CHAR_RANGE). -/
  | charRange
  /-- Base64DecodeError: a malformed group, a length that is no multiple of 4, or padding before the last group. -/
  | base64Decode
  /-- BlockSizeError: a bit string whose length is no multiple of 8. -/
  | blockSize
  /-- A command ended with an error code that stands for none of the above. -/
  | command (err : BitVec 4)
deriving DecidableEq, Repr

/-- What a procedure ends with, and the core's state then. -/
abbrev Procedure (α : Type) := State → Except MessageError α × State

/-- The command succeeded: the host reads STATUS.ERR (spec/70_reset_and_hazards.md R284). -/
def errClear (s : State) : Bool := s.status.err == 0#4

/-- The typed error a STATUS.ERR value stands for (spec/60_exceptions.md R250, R256). -/
def errorMeaning (err : BitVec 4) : MessageError :=
  if err = errNumber .charRange then .charRange
  else if err = errNumber .base64Decode then .base64Decode
  else .command err

/-- Issue one command; its result is RES, or an error where STATUS.ERR is not 0 (spec/70_reset_and_hazards.md
R284). DESIGN CHOICE (log 23): the host's reads of STATUS and RES are not run as reads of the read port. The
values are taken from the state, as such reads give them, and rd_addr and rd_data stay as they were. -/
def ask (i : Instr) : Procedure Word := fun s =>
  let t := afterCommand i s
  (if errClear t then .ok t.res else .error (errorMeaning t.status.err), t)

/-- First one procedure, then, unless it failed, the next. -/
def andThen {α β : Type} (p : Procedure α) (f : α → Procedure β) : Procedure β := fun s =>
  match p s with
  | (.ok x, t) => f x t
  | (.error e, t) => (.error e, t)

/-- A value, with no command issued. -/
def give {α : Type} (x : α) : Procedure α := fun s => (.ok x, s)

/-- An error, with no command issued. -/
def fail {α : Type} (e : MessageError) : Procedure α := fun s => (.error e, s)

/-- One procedure for each element in order; the first failure ends it with no output. -/
def forEach {α β : Type} (f : α → Procedure β) : List α → Procedure (List β)
  | [] => give []
  | x :: xs => andThen (f x) fun y => andThen (forEach f xs) fun ys => give (y :: ys)

/-- textToBinary: CD.T2B for each character code; the byte is RES[7:0] (R209). -/
def textToBinary : List CharCode → Procedure (List Byte) :=
  forEach fun c => andThen (ask (.cdT2b c)) fun r => give (r.extractLsb' 0 8)

/-- binaryToText: CD.B2T for each byte; the character is RES[15:0] (R209). No byte is an error (R202). -/
def binaryToText : List Byte → Procedure (List CharCode) :=
  forEach fun b => andThen (ask (.cdB2t b)) fun r => give (r.extractLsb' 0 16)

/-- The four characters of a packed group (spec/20_memory.md R66), as character codes. -/
def unpackFour (w : Word) : List CharCode :=
  [(w.extractLsb' 24 8).setWidth 16, (w.extractLsb' 16 8).setWidth 16, (w.extractLsb' 8 8).setWidth 16,
    (w.extractLsb' 0 8).setWidth 16]

/-- binaryToBase64: groups of three bytes from the start, the last one shorter if need be (R209). -/
def binaryToBase64 : List Byte → Procedure (List CharCode)
  | [] => give []
  | [b0] => andThen (ask (.cdB64e 1#2 b0 0#8 0#8)) fun r => give (unpackFour r)
  | [b0, b1] => andThen (ask (.cdB64e 2#2 b0 b1 0#8)) fun r => give (unpackFour r)
  | b0 :: b1 :: b2 :: rest =>
    andThen (ask (.cdB64e 3#2 b0 b1 b2)) fun r =>
      andThen (binaryToBase64 rest) fun cs => give (unpackFour r ++ cs)

/-- A character code as a field of format C4, if it fits (spec/30_encoding.md R82; log 15). -/
def charByte (c : CharCode) : Option Byte := if c.toNat ≤ 0xFF then some (c.extractLsb' 0 8) else none

/-- The first `cnt` bytes of a CD.B64D result (spec/43_codec.md R207). -/
def groupBytes (r : Word) : List Byte :=
  [r.extractLsb' 16 8, r.extractLsb' 8 8, r.extractLsb' 0 8].take (r.extractLsb' 24 2).toNat

/-- CD.B64D on four characters; a group that is not the last must hold three bytes (R209). DESIGN CHOICE
(log 21): that is checked as soon as the group's CD.B64D is done. -/
def decodeGroup (c0 c1 c2 c3 : CharCode) (last : Bool) : Procedure (List Byte) :=
  match charByte c0, charByte c1, charByte c2, charByte c3 with
  | some x0, some x1, some x2, some x3 =>
    andThen (ask (.cdB64d x0 x1 x2 x3)) fun r =>
      if last || (groupBytes r).length == 3 then give (groupBytes r) else fail .base64Decode
  | _, _, _, _ => fail .base64Decode

/-- The groups of base64ToBinary: CD.B64D for each group of four; any other length fails (R209). DESIGN CHOICE
(log 21): after a group that fails, no CD.B64D is issued for the groups left. -/
def decodeGroups : List CharCode → Procedure (List Byte)
  | [] => give []
  | c0 :: c1 :: c2 :: c3 :: rest =>
    andThen (decodeGroup c0 c1 c2 c3 rest.isEmpty) fun bs =>
      andThen (decodeGroups rest) fun tail => give (bs ++ tail)
  | _ => fail .base64Decode

/-- base64ToBinary: the length is checked before any group is decoded (R209). -/
def base64ToBinary (s : List CharCode) : Procedure (List Byte) :=
  if s.length % 4 = 0 then decodeGroups s else fail .base64Decode

/-- The two digits of CD.HEX, high digit first (R208). -/
def hexPair (b : Byte) : Procedure (List CharCode) :=
  andThen (ask (.cdHex b)) fun r =>
    give [(r.extractLsb' 8 8).setWidth 16, (r.extractLsb' 0 8).setWidth 16]

/-- binaryToHex: CD.HEX for each byte, the results joined by one space (R209). -/
def binaryToHex (bytes : List Byte) : Procedure (List CharCode) :=
  andThen (forEach hexPair bytes) fun pairs => give (List.intercalate [0x20#16] pairs)

/-- A block command for each byte, its result the byte RES[7:0] (R209). -/
def eachBlock (i : Byte → Instr) : List Byte → Procedure (List Byte) :=
  forEach fun b => andThen (ask (i b)) fun r => give (r.extractLsb' 0 8)

/-- encrypt(text, key) (R209). -/
def encryptText (text : List CharCode) (key : Key) : Procedure (List CharCode) :=
  andThen (ask (.ksLoad key)) fun _ =>
    andThen (textToBinary text) fun bytes => andThen (eachBlock .bcEnc bytes) binaryToBase64

/-- decrypt(s, key) (R209). -/
def decryptText (s : List CharCode) (key : Key) : Procedure (List CharCode) :=
  andThen (ask (.ksLoad key)) fun _ =>
    andThen (base64ToBinary s) fun bytes => andThen (eachBlock .bcDec bytes) binaryToText

/-- One character of a key string as a bit, `none` for any other character (spec/60_exceptions.md R256). -/
def keyBit (c : Char) : Option Bool := if c = '0' then some false else if c = '1' then some true else none

/-- The host's check and packing of a key string: ten characters 0 or 1, `key<i>` = character i
(spec/70_reset_and_hazards.md R283; spec/60_exceptions.md R256). -/
def packKey (str : List Char) : Except MessageError Key :=
  match str.mapM keyBit with
  | some bits =>
    if bits.length = 10 then .ok (bits.foldl (fun k b => k.shiftConcat b) 0#10) else .error .invalidKeyFormat
  | none => .error .invalidKeyFormat

/-- A bit string cut into bytes, first bit most significant; any length that is no multiple of 8 is
BlockSizeError (spec/43_codec.md R211). -/
def chunkBits : List Bool → Except MessageError (List Byte)
  | [] => .ok []
  | x0 :: x1 :: x2 :: x3 :: x4 :: x5 :: x6 :: x7 :: rest =>
    match chunkBits rest with
    | .ok bs => .ok ([x0, x1, x2, x3, x4, x5, x6, x7].foldl (fun k b => k.shiftConcat b) 0#8 :: bs)
    | .error e => .error e
  | _ => .error .blockSize

end Sys2Proof.Machine
end

