-- ==== Sys2Proof/Safety.lean ====
section
/-!
DEFINITION. What holds of a state that a run reaches: the terms in which claims are stated.
-/

namespace Sys2Proof.Machine

/-- The registers tell one story (spec/10_state.md R34 to R41). -/
structure Coherent (s : State) : Prop where
  /-- ERR holds 0 or the number of an error a command raises: 7 and 8 to 15 are never written (R35; spec/60_exceptions.md R250). -/
  errLegal : s.status.err.toNat ≤ 6
  /-- After a command that ended in error, RES is 0 and ESTK is 1 (R33, R41). -/
  errorSeen : s.status.err ≠ 0#4 → s.res = 0#32 ∧ s.status.estk = true
  /-- While KV = 0, KEYS and TKS0..TKS5 are 0 and no block trace stands (R37, R40). -/
  noKey : s.status.kv = false → s.keys = 0#16 ∧ s.tks = KeyTrace.reset ∧ s.status.tbv = false
  /-- While KV = 1, KEYS and TKS0..TKS5 hold the schedule of the key in TKS0 (R34, R36, R38). -/
  keyShown : s.status.kv = true → s.keys = subkeys s.tks.tks0 ∧ s.tks = keyTrace s.tks.tks0
  /-- While TBV = 1, TBK0..TBK8 hold a block trace computed under the current KEYS, enciphering or
  deciphering (R34, R39). -/
  traceShown : s.status.tbv = true →
    s.tbk = blk s.params s.tbk.tbk0 (keyOne s) (keyTwo s) ∨ s.tbk = blk s.params s.tbk.tbk0 (keyTwo s) (keyOne s)
  /-- While `rst` is 1 no command is in flight (spec/70_reset_and_hazards.md R280). -/
  rstIdle : s.rst = true → s.inFlight = none

/-- The host does nothing before the command in flight completes: its next action waits, or there is
none. -/
def hostWaits (s : State) : Bool :=
  match s.host with
  | [] => true
  | .issue _ :: _ => true
  | .read _ :: _ => true
  | _ => false

/-- Two states agree on every register of spec/10_state.md R32. -/
def SameRegs (s t : State) : Prop :=
  t.res = s.res ∧ t.status = s.status ∧ t.keys = s.keys ∧ t.tks = s.tks ∧ t.tbk = s.tbk

/-- Two states agree on the ports, the parameters and the host's coming actions: all that no command
touches. The read port's signals stand between reads by the model's choice (log 22). -/
def SamePorts (s t : State) : Prop :=
  t.params = s.params ∧ t.rst = s.rst ∧ t.inFlight = s.inFlight ∧ t.rdAddr = s.rdAddr ∧ t.rdData = s.rdData ∧
    t.host = s.host ∧ t.nRace = s.nRace

/-- The frame of a command that writes RES and ERR and nothing else: KEYS, KV, TBV, ESTK, the trace
registers, the parameters and the ports stand. -/
def OnlyResErr (s t : State) : Prop :=
  t.keys = s.keys ∧ t.tks = s.tks ∧ t.tbk = s.tbk ∧ t.status.kv = s.status.kv ∧ t.status.tbv = s.status.tbv ∧
    t.status.estk = s.status.estk ∧ SamePorts s t

end Sys2Proof.Machine
end

