-- ==== Sys2Proof/Certificates/Slice0/Obligations.lean ====
section
/-!
DEFINITION. The statements about the model. The tables, masks, alphabets and code numbers they need are
written out here again from the spec, so that a slip in the model's own tables makes a statement false.
-/

namespace Sys2Proof.Claims

open Sys2Proof.Machine

/-- A list of bits, first bit most significant, as a 32-bit word. -/
def word (l : List Bool) : Word := (BitVec.ofBoolListBE l).setWidth 32

/-- The bits of `v` at the string positions of a table, in order (spec/00_scope.md R11, R12). -/
def pick {n : Nat} (v : BitVec n) (T : List Nat) : Word := word (T.map fun p => v.getMsbD p)

/-- The command answers a next state with this result, ERR 0, and nothing else written. -/
def Answers (i : Instr) (s : State) (r : Word) : Prop :=
  ∃ t, exec i s = .next t ∧ t.res = r ∧ t.status.err = 0#4 ∧ OnlyResErr s t

/-- The error outcome: RES 0, ERR the code, ESTK 1, and nothing else written (spec/60_exceptions.md R252). -/
def IsError (code : BitVec 4) (s t : State) : Prop :=
  t.res = 0#32 ∧ t.status.err = code ∧ t.status.estk = true ∧ t.keys = s.keys ∧ t.tks = s.tks ∧ t.tbk = s.tbk ∧
    t.status.kv = s.status.kv ∧ t.status.tbv = s.status.tbv ∧ SamePorts s t

/-- The command answers the error outcome with this code. -/
def FailsWith (i : Instr) (s : State) (code : BitVec 4) : Prop := ∃ t, exec i s = .next t ∧ IsError code s t

/-- Every word with this OP: with a reserved ARG bit set it ends in RESERVED_NONZERO, else it runs as the
command its fields give. -/
def WordRuns (op : Byte) (reserved : Word) (command : Word → Instr) : Prop :=
  ∀ (arg : Word) (s : State),
    (arg &&& reserved ≠ 0#32 → ∃ t, runWord (op ++ arg) s = .next t ∧ IsError 2#4 s t) ∧
      (arg &&& reserved = 0#32 → runWord (op ++ arg) s = exec (command arg) s)

/-- The OP values outside the opcode map (spec/30_encoding.md R86). -/
def Undefined (op : Byte) : Prop :=
  let n := op.toNat
  (0x02 ≤ n ∧ n ≤ 0x0F) ∨ (0x15 ≤ n ∧ n ≤ 0x1F) ∨ (0x27 ≤ n ∧ n ≤ 0x2F) ∨ (0x37 ≤ n ∧ n ≤ 0x3F) ∨ (0x45 ≤ n ∧ n ≤ 0xFF)

/-- The reserved mask of a defined OP, by the "used by" column of R82. -/
def reservedMask (op : Byte) : Word :=
  let n := op.toNat
  if n ∈ [0x00, 0x01] then 0xFFFFFFFF#32
  else if n ∈ [0x10, 0x11, 0x12, 0x13, 0x14] then 0xFFFFFC00#32
  else if n ∈ [0x20, 0x22, 0x23, 0x24] then 0xFFFFFFF0#32
  else if n ∈ [0x30, 0x31, 0x32, 0x33, 0x34, 0x41, 0x44] then 0xFFFFFF00#32
  else if n = 0x25 then 0xFFFFF000#32
  else if n ∈ [0x21, 0x26] then 0xFFFF0000#32
  else if n ∈ [0x35, 0x36] then 0xFFFC0000#32
  else if n = 0x40 then 0xFFFF0000#32
  else if n = 0x42 then 0xFC000000#32
  else 0x00000000#32

/-- The Base64 alphabet in order (spec/43_codec.md R203). -/
def alphabet : List Char := "ABCDEFGHIJKLMNOPQRSTUVWXYZabcdefghijklmnopqrstuvwxyz0123456789+/".toList

/-- The code of the alphabet's character for a sextet. -/
def code64 (v : BitVec 6) : Byte := BitVec.ofNat 8 (alphabet.getD v.toNat ' ').toNat

/-- The code is one of an alphabet character. -/
def InAlphabet (c : Byte) : Prop := ∃ v : BitVec 6, c = code64 v

/-- The pad character `=`. -/
def equalsSign : Byte := BitVec.ofNat 8 '='.toNat

/-- A malformed Base64 group (spec/43_codec.md R207, Errors). -/
def Malformed (c0 c1 c2 c3 : Byte) : Prop :=
  ¬ InAlphabet c0 ∨ ¬ InAlphabet c1 ∨ (c2 = equalsSign ∧ c3 ≠ equalsSign) ∨ (c2 ≠ equalsSign ∧ ¬ InAlphabet c2) ∨
    (c3 ≠ equalsSign ∧ ¬ InAlphabet c3)

/-- The code of an uppercase hex digit (spec/43_codec.md R208). -/
def hexCode (d : Half) : Byte := BitVec.ofNat 8 ("0123456789ABCDEF".toList.getD d.toNat ' ').toNat

/-- K1 = KEYS[15:8]. -/
def k1Of (s : State) : Byte := s.keys.extractLsb' 8 8

/-- K2 = KEYS[7:0]. -/
def k2Of (s : State) : Byte := s.keys.extractLsb' 0 8

/-- K1 of a key, by the closed form of spec/40_key_schedule.md R117. -/
def subkeyOne (key : Key) : Byte := (pick key [0, 6, 8, 3, 7, 2, 9, 5]).setWidth 8

/-- K2 of a key, by the closed form of R117. -/
def subkeyTwo (key : Key) : Byte := (pick key [7, 2, 5, 4, 9, 1, 8, 0]).setWidth 8

/-- A next state that writes RES, ERR and the block trace only, the trace by the policy of
spec/42_block_cipher.md R177. -/
def TracedBlock (s t : State) (trace : BlockTrace) : Prop :=
  t.res = trace.tbk8.setWidth 32 ∧ t.status.err = 0#4 ∧ t.status.estk = s.status.estk ∧ t.status.kv = s.status.kv ∧
    t.keys = s.keys ∧ t.tks = s.tks ∧ SamePorts s t ∧
    (s.params.traceFirstOnly = true ∧ s.status.tbv = true → t.tbk = s.tbk ∧ t.status.tbv = true) ∧
    (s.params.traceFirstOnly = false ∨ s.status.tbv = false → t.tbk = trace ∧ t.status.tbv = true)

/-- The nine values of R174 for one block, each from the ones before it. -/
def BlockValues (p : Params) (b rk1 rk2 : Byte) (t : BlockTrace) : Prop :=
  t.tbk0 = b ∧
  t.tbk1 = (pick b [1, 5, 2, 0, 3, 7, 4, 6]).setWidth 8 ∧
  t.tbk2 = roundF p (t.tbk1.extractLsb' 0 4) rk1 ∧
  t.tbk3 = t.tbk1.extractLsb' 4 4 ^^^ t.tbk2 ∧
  t.tbk4 = t.tbk1.extractLsb' 0 4 ++ t.tbk3 ∧
  t.tbk5 = roundF p t.tbk3 rk2 ∧
  t.tbk6 = t.tbk1.extractLsb' 0 4 ^^^ t.tbk5 ∧
  t.tbk7 = t.tbk6 ++ t.tbk3 ∧
  t.tbk8 = (pick t.tbk7 [3, 0, 2, 4, 6, 1, 7, 5]).setWidth 8

/-- A byte beyond the count of a group is nonzero (spec/30_encoding.md R82, format G3). -/
def BeyondCount (cnt : BitVec 2) (b1 b2 : Byte) : Prop :=
  cnt = 1#2 ∧ (b1 ≠ 0#8 ∨ b2 ≠ 0#8) ∨ cnt = 2#2 ∧ b2 ≠ 0#8

/-- The code a command's own checks report, in the order of spec/60_exceptions.md R253, item 3. -/
def OwnChecksReport (op : Byte) (arg : Word) (s : State) (code : BitVec 4) : Prop :=
  let cnt : BitVec 2 := arg.extractLsb' 24 2
  let c0 : Byte := arg.extractLsb' 24 8
  let c1 : Byte := arg.extractLsb' 16 8
  let c2 : Byte := arg.extractLsb' 8 8
  let c3 : Byte := arg.extractLsb' 0 8
  (op = 0x42#8 → cnt = 0#2 → code = 6#4) ∧
  (op = 0x42#8 → cnt ≠ 0#2 → BeyondCount cnt c2 c3 → code = 2#4) ∧
  (op = 0x42#8 → cnt ≠ 0#2 → ¬ BeyondCount cnt c2 c3 → code = 0#4) ∧
  (op = 0x33#8 ∨ op = 0x34#8 → code = if s.status.kv then 0#4 else 3#4) ∧
  (op = 0x40#8 → code = if (arg.extractLsb' 0 16).toNat ≤ 255 then 0#4 else 4#4) ∧
  (op = 0x43#8 → Malformed c0 c1 c2 c3 → code = 5#4) ∧
  (op = 0x43#8 → ¬ Malformed c0 c1 c2 c3 → code = 0#4) ∧
  (op ∉ [0x42#8, 0x33#8, 0x34#8, 0x40#8, 0x43#8] → code = 0#4)

/-- The code STATUS.ERR reports for a command word, by the priority of spec/60_exceptions.md R253. -/
def Reports (w : CmdWord) (s : State) (code : BitVec 4) : Prop :=
  (Undefined (opOf w) → code = 1#4) ∧
  (¬ Undefined (opOf w) → argOf w &&& reservedMask (opOf w) ≠ 0#32 → code = 2#4) ∧
  (¬ Undefined (opOf w) → argOf w &&& reservedMask (opOf w) = 0#32 → OwnChecksReport (opOf w) (argOf w) s code)

/-- The next step is a fall of `rst` or a return of power, by the host's next action. -/
def ResetComes (s : State) : Prop :=
  (∃ rest, s.host = .dropRst :: rest ∧ s.rst = true) ∨ (∃ rest, s.host = .powerCycle :: rest)

/-- The next step completes the command in flight, and it is this one: the host does nothing before. -/
def Completes (s : State) (i : Instr) : Prop := hostWaits s = true ∧ ∃ w, s.inFlight = some w ∧ decode w = .ok i

/-- The state with another CMD_LATENCY. -/
def withLatency (n : Nat) (s : State) : State := { s with params := { s.params with cmdLatency := n } }

/-- Every register of the state at zero. -/
def ZeroRegs (t : State) : Prop :=
  t.res = 0#32 ∧ t.status.err = 0#4 ∧ t.status.kv = false ∧ t.status.tbv = false ∧ t.status.estk = false ∧
    t.keys = 0#16 ∧ t.tks.tks0 = 0#10 ∧ t.tks.tks1 = 0#10 ∧ t.tks.tks2 = 0#10 ∧ t.tks.tks3 = 0#8 ∧ t.tks.tks4 = 0#10 ∧
    t.tks.tks5 = 0#8 ∧ t.tbk.tbk0 = 0#8 ∧ t.tbk.tbk1 = 0#8 ∧ t.tbk.tbk2 = 0#4 ∧ t.tbk.tbk3 = 0#4 ∧ t.tbk.tbk4 = 0#8 ∧
    t.tbk.tbk5 = 0#4 ∧ t.tbk.tbk6 = 0#4 ∧ t.tbk.tbk7 = 0#8 ∧ t.tbk.tbk8 = 0#8 ∧ ∀ a, readReg t a = 0#32

/-- The operand values of a command, in the order of spec/30_encoding.md R82. -/
def operandValues : Instr → List Nat
  | .ctlNop => []
  | .ctlClr => []
  | .ksP10 v => [v.toNat]
  | .ksRot1 v => [v.toNat]
  | .ksRot2 v => [v.toNat]
  | .ksP8 v => [v.toNat]
  | .ksLoad key => [key.toNat]
  | .frEp n => [n.toNat]
  | .frXor a b => [a.toNat, b.toNat]
  | .frSbox0 n => [n.toNat]
  | .frSbox1 n => [n.toNat]
  | .frP4 n => [n.toNat]
  | .frF sk r => [sk.toNat, r.toNat]
  | .frFk sk b => [sk.toNat, b.toNat]
  | .bcIp b => [b.toNat]
  | .bcIpinv b => [b.toNat]
  | .bcSw b => [b.toNat]
  | .bcEnc b => [b.toNat]
  | .bcDec b => [b.toNat]
  | .bcEnck key b => [key.toNat, b.toNat]
  | .bcDeck key b => [key.toNat, b.toNat]
  | .cdT2b c => [c.toNat]
  | .cdB2t b => [b.toNat]
  | .cdB64e cnt b0 b1 b2 => [cnt.toNat, b0.toNat, b1.toNat, b2.toNat]
  | .cdB64d c0 c1 c2 c3 => [c0.toNat, c1.toNat, c2.toNat, c3.toNat]
  | .cdHex b => [b.toNat]

/-- These numbers spell the operands of a command (spec/30_encoding.md R88): each is its field's value, and
format G3 may omit trailing bytes, which are then 0. -/
def Spells (xs : List Nat) (i : Instr) : Prop :=
  if opByte i = 0x42#8 then xs ≠ [] ∧ xs ++ List.replicate (4 - xs.length) 0 = operandValues i else xs = operandValues i

/-- Each mnemonic of spec/30_encoding.md R85 in upper and in lower case, with its OP. -/
def mnemonicRows : List (String × String × Byte) :=
  [ ("CTL.NOP", "ctl.nop", 0x00#8), ("CTL.CLR", "ctl.clr", 0x01#8), ("KS.P10", "ks.p10", 0x10#8),
    ("KS.ROT1", "ks.rot1", 0x11#8), ("KS.ROT2", "ks.rot2", 0x12#8), ("KS.P8", "ks.p8", 0x13#8),
    ("KS.LOAD", "ks.load", 0x14#8), ("FR.EP", "fr.ep", 0x20#8), ("FR.XOR", "fr.xor", 0x21#8),
    ("FR.SBOX0", "fr.sbox0", 0x22#8), ("FR.SBOX1", "fr.sbox1", 0x23#8), ("FR.P4", "fr.p4", 0x24#8),
    ("FR.F", "fr.f", 0x25#8), ("FR.FK", "fr.fk", 0x26#8), ("BC.IP", "bc.ip", 0x30#8), ("BC.IPINV", "bc.ipinv", 0x31#8),
    ("BC.SW", "bc.sw", 0x32#8), ("BC.ENC", "bc.enc", 0x33#8), ("BC.DEC", "bc.dec", 0x34#8),
    ("BC.ENCK", "bc.enck", 0x35#8), ("BC.DECK", "bc.deck", 0x36#8), ("CD.T2B", "cd.t2b", 0x40#8),
    ("CD.B2T", "cd.b2t", 0x41#8), ("CD.B64E", "cd.b64e", 0x42#8), ("CD.B64D", "cd.b64d", 0x43#8),
    ("CD.HEX", "cd.hex", 0x44#8) ]

/-- The name is the mnemonic, each letter as in its upper or its lower spelling. -/
def Names (name : List Char) (row : String × String × Byte) : Prop :=
  List.Forall₂ (fun c p => c = p.1 ∨ c = p.2) name (row.1.toList.zip row.2.1.toList)

/-- The digits as characters of the alphabet given. -/
def digitChars {base : Nat} (letters : String) (ds : List (Fin base)) : List Char :=
  ds.map fun d => letters.toList.getD d.val ' '

/-- The value of a run of digits, most significant first. -/
def digitsValue {base : Nat} (ds : List (Fin base)) : Nat := Nat.ofDigits base (ds.reverse.map Fin.val)

end Sys2Proof.Claims

open Sys2Proof Sys2Proof.Machine Sys2Proof.Claims

/-- spec/30_encoding.md R80 to R87: decoding an encoded command gives it back, for every command. -/
def Obligations.DecodingAnEncodedCommandGivesItBack : Prop := ∀ i : Instr, decode (encode i) = .ok i

/-- spec/30_encoding.md R80 to R87: a word that decodes is the encoding of its command, so no bit of a
word is ignored. -/
def Obligations.ADecodedWordIsItsCommandsEncoding : Prop := ∀ (w : CmdWord) (i : Instr), decode w = .ok i → encode i = w

/-- spec/30_encoding.md R85 and spec/95_test_vectors.md: words written out from the encodings. -/
def Obligations.SampleWordsOfTheSpecDecode : Prop :=
  decode 0x00_00000000#40 = .ok .ctlNop ∧
  decode 0x14_00000282#40 = .ok (.ksLoad 0b1010000010#10) ∧
  decode 0x25_00000A4C#40 = .ok (.frF 0xA4#8 0xC#4) ∧
  decode 0x26_0000A484#40 = .ok (.frFk 0xA4#8 0x84#8) ∧
  decode 0x35_00028297#40 = .ok (.bcEnck 0b1010000010#10 0b10010111#8) ∧
  decode 0x42_03486921#40 = .ok (.cdB64e 3#2 0x48#8 0x69#8 0x21#8) ∧
  decode 0x43_46513D3D#40 = .ok (.cdB64d 0x46#8 0x51#8 0x3D#8 0x3D#8)

/-- spec/30_encoding.md R86. -/
def Obligations.UndefinedOpEndsInIllegalOp : Prop :=
  (∀ (w : CmdWord) (s : State), Undefined (opOf w) → ∃ t, runWord w s = .next t ∧ IsError 1#4 s t) ∧
  (∀ w : CmdWord, ¬ Undefined (opOf w) → decode w ≠ .error .illegalOp) ∧
  (∀ (w : CmdWord) (s : State), ¬ Undefined (opOf w) → argOf w &&& reservedMask (opOf w) ≠ 0#32 →
    ∃ t, runWord w s = .next t ∧ IsError 2#4 s t)

/-- spec/30_encoding.md R84. -/
def Obligations.ReservedBitsDecideWhetherADefinedOpDecodes : Prop :=
  ∀ (w : CmdWord) (s : State), ¬ Undefined (opOf w) →
    (argOf w &&& reservedMask (opOf w) ≠ 0#32 → ∃ t, runWord w s = .next t ∧ IsError 2#4 s t) ∧
    (argOf w &&& reservedMask (opOf w) = 0#32 → ∃ i, decode w = .ok i ∧ opByte i = opOf w)

/-- One step completes the command in flight, when the host does nothing before (spec/00_scope.md R6). The
acceptance and the completion being two steps is the model's choice (log 9). -/
def Obligations.AStepCompletesTheWordInFlight : Prop :=
  ∀ (s : State) (w : CmdWord), s.inFlight = some w → hostWaits s = true →
    (∀ i, decode w = .ok i → step s = exec i { s with inFlight := none }) ∧
    (∀ e, decode w = .error e → ∃ t, step s = .next t ∧ IsError (errNumber e) { s with inFlight := none } t)

/-- The model's choice of how a program is placed (log 9, log 14): the placed word is the next step's. -/
def Obligations.APlacedCommandIsTheNextStep : Prop :=
  ∀ (s : State) (i : Instr),
    step (s.withFetchWord 40 (encode i).toNat) = exec i { s with rst := false, inFlight := none, host := [] }

/-- spec/20_memory.md R60, spec/70_reset_and_hazards.md R280, R285: when a presented word is accepted. The
host's actions, the acceptance as a step, and that a word to be withdrawn never transfers are the model's
choice (log 9, log 20). -/
def Obligations.AWordIsAcceptedExactlyWhenReady : Prop :=
  (∀ (s : State) (w : CmdWord) (rest : List HostAction), s.host = .issue w :: rest → s.rst = false → s.inFlight = none →
    step s = .next { s with inFlight := some w, host := rest }) ∧
  (∀ s t : State, step s = .next t → s.rst = true ∨ s.inFlight ≠ none → t.inFlight = none ∨ t.inFlight = s.inFlight) ∧
  (∀ s t : State, step s = .next t → t.inFlight ≠ s.inFlight → t.inFlight ≠ none →
    ∃ w rest, s.host = .issue w :: rest ∧ t.inFlight = some w ∧ s.rst = false ∧ s.inFlight = none) ∧
  (∀ (s : State) (w : CmdWord) (rest : List HostAction), s.host = .withdraw w :: rest →
    step s = .next { s with host := rest })

/-- spec/60_exceptions.md R254, R255: no word traps or stalls; every one completes. That `rd_addr`, `rd_data`
and the model's counter `nRace` stand through a word (in `SamePorts`) is the model's choice (log 22). -/
def Obligations.EveryWordCompletes : Prop := ∀ (w : CmdWord) (s : State), ∃ t, runWord w s = .next t ∧ SamePorts s t

/-- spec/60_exceptions.md R252: a word whose checks fail with a code makes exactly the three error writes, and
a word that leaves a code has made no others. -/
def Obligations.AFailingCommandWritesThreeThings : Prop :=
  (∀ (w : CmdWord) (s : State) (code : BitVec 4), Reports w s code → code ≠ 0#4 →
    ∃ t, runWord w s = .next t ∧ IsError code s t) ∧
  (∀ (w : CmdWord) (s t : State), runWord w s = .next t → t.status.err ≠ 0#4 → IsError t.status.err s t)

/-- spec/60_exceptions.md R253. -/
def Obligations.TheFirstFailingCheckIsReported : Prop :=
  ∀ (w : CmdWord) (s t : State), runWord w s = .next t → Reports w s t.status.err

/-- spec/10_state.md R41. That a fall of `rst` and a return of power are one step each is the model's choice
(log 7, log 9, log 17). -/
def Obligations.OnlyClrAndResetClearTheStickyError : Prop :=
  (∀ (w : CmdWord) (s t : State), runWord w s = .next t → t.status.err ≠ 0#4 → t.status.estk = true) ∧
  (∀ (w : CmdWord) (s t : State), runWord w s = .next t → t.status.err = 0#4 → decode w ≠ .ok .ctlClr →
    t.status.estk = s.status.estk) ∧
  (∀ s t : State, step s = .next t → s.status.estk = true → t.status.estk = false → Completes s .ctlClr ∨ ResetComes s) ∧
  (∀ s : State, ∃ t, exec .ctlClr s = .next t ∧ t.status.estk = false) ∧
  (∀ s : State, ResetComes s → ∃ t, step s = .next t ∧ t.status.estk = false)

/-- spec/40_key_schedule.md R112, R115. -/
def Obligations.KsP10AndKsP8SelectPositions : Prop :=
  WordRuns 0x10#8 0xFFFFFC00#32 (fun x => .ksP10 (x.extractLsb' 0 10)) ∧
  WordRuns 0x13#8 0xFFFFFC00#32 (fun x => .ksP8 (x.extractLsb' 0 10)) ∧
  (∀ (v : Key) (s : State), Answers (.ksP10 v) s (pick v [2, 4, 1, 6, 3, 9, 0, 8, 7, 5])) ∧
  (∀ (v : Key) (s : State), Answers (.ksP8 v) s (pick v [5, 2, 6, 3, 7, 4, 9, 8]))

/-- spec/40_key_schedule.md R111, R113, R114: position `i` takes position `5*(i div 5) + ((i + k) mod 5)`. -/
def Obligations.KsRotationsStayInTheirHalves : Prop :=
  WordRuns 0x11#8 0xFFFFFC00#32 (fun x => .ksRot1 (x.extractLsb' 0 10)) ∧
  WordRuns 0x12#8 0xFFFFFC00#32 (fun x => .ksRot2 (x.extractLsb' 0 10)) ∧
  (∀ (v : Key) (s : State), Answers (.ksRot1 v) s (pick v ((List.range 10).map fun i => 5 * (i / 5) + (i + 1) % 5))) ∧
  (∀ (v : Key) (s : State), Answers (.ksRot2 v) s (pick v ((List.range 10).map fun i => 5 * (i / 5) + (i + 2) % 5)))

/-- spec/40_key_schedule.md R116, with the values by the closed form of R117. -/
def Obligations.KsLoadWritesTheSchedule : Prop :=
  WordRuns 0x14#8 0xFFFFFC00#32 (fun x => .ksLoad (x.extractLsb' 0 10)) ∧
  ∀ (key : Key) (s : State), ∃ t, exec (.ksLoad key) s = .next t ∧
    t.res = (subkeyOne key ++ subkeyTwo key).setWidth 32 ∧ t.keys = subkeyOne key ++ subkeyTwo key ∧
    t.tks.tks0 = key ∧
    t.tks.tks1 = (pick key [2, 4, 1, 6, 3, 9, 0, 8, 7, 5]).setWidth 10 ∧
    t.tks.tks2 = (pick key [4, 1, 6, 3, 2, 0, 8, 7, 5, 9]).setWidth 10 ∧
    t.tks.tks3 = subkeyOne key ∧
    t.tks.tks4 = (pick key [6, 3, 2, 4, 1, 7, 5, 9, 0, 8]).setWidth 10 ∧
    t.tks.tks5 = subkeyTwo key ∧
    t.status.kv = true ∧ t.status.tbv = false ∧ t.status.err = 0#4 ∧ t.status.estk = s.status.estk ∧ t.tbk = s.tbk ∧
    SamePorts s t

/-- spec/40_key_schedule.md R119. -/
def Obligations.TheKeyPrimitivesComputeTheSchedule : Prop :=
  ∀ (key : Key) (s : State),
    let load := afterCommand (.ksLoad key) s
    let p := afterCommand (.ksP10 key) s
    let r1 := afterCommand (.ksRot1 (p.res.extractLsb' 0 10)) p
    let k1 := afterCommand (.ksP8 (r1.res.extractLsb' 0 10)) r1
    let r2 := afterCommand (.ksRot2 (r1.res.extractLsb' 0 10)) k1
    let k2 := afterCommand (.ksP8 (r2.res.extractLsb' 0 10)) r2
    k1.res = (k1Of load).setWidth 32 ∧ k2.res = (k2Of load).setWidth 32 ∧ p.res = load.tks.tks1.setWidth 32 ∧
      r1.res = load.tks.tks2.setWidth 32 ∧ r2.res = load.tks.tks4.setWidth 32

/-- spec/40_key_schedule.md R116, corner cases: no two keys share their subkeys, and equal keys load equal
registers whatever the states before (R118). -/
def Obligations.LoadedKeysAreToldApartByTheirSubkeys : Prop :=
  ∀ (key key' : Key) (s s' : State),
    ((afterCommand (.ksLoad key) s).keys = (afterCommand (.ksLoad key') s').keys ↔ key = key') ∧
    ((afterCommand (.ksLoad key) s).tks = (afterCommand (.ksLoad key') s').tks ↔ key = key')

/-- spec/41_feistel_round.md R144, R148. -/
def Obligations.FrEpAndFrP4SelectPositions : Prop :=
  WordRuns 0x20#8 0xFFFFFFF0#32 (fun x => .frEp (x.extractLsb' 0 4)) ∧
  WordRuns 0x24#8 0xFFFFFFF0#32 (fun x => .frP4 (x.extractLsb' 0 4)) ∧
  (∀ (n : Half) (s : State), Answers (.frEp n) s (pick n [3, 0, 1, 2, 1, 2, 3, 0])) ∧
  (∀ (n : Half) (s : State), Answers (.frP4 n) s (pick n [1, 3, 2, 0]))

/-- spec/41_feistel_round.md R145: each bit of the result is the exclusive OR of the operands' bits. -/
def Obligations.FrXorIsBitwise : Prop :=
  WordRuns 0x21#8 0xFFFF0000#32 (fun x => .frXor (x.extractLsb' 8 8) (x.extractLsb' 0 8)) ∧
  ∀ (a b : Byte) (s : State), Answers (.frXor a b) s (word ((List.range 8).map fun i => a.getMsbD i ^^ b.getMsbD i))

/-- spec/41_feistel_round.md R142, R146, R147: row from the outer bits, column from the inner bits. -/
def Obligations.FrSboxCommandsReadRowAndColumn : Prop :=
  WordRuns 0x22#8 0xFFFFFFF0#32 (fun x => .frSbox0 (x.extractLsb' 0 4)) ∧
  WordRuns 0x23#8 0xFFFFFFF0#32 (fun x => .frSbox1 (x.extractLsb' 0 4)) ∧
  ∀ (n : Half) (s : State), ∃ row col : Fin 4,
    row.val = 2 * (n.getMsbD 0).toNat + (n.getMsbD 3).toNat ∧ col.val = 2 * (n.getMsbD 1).toNat + (n.getMsbD 2).toNat ∧
    Answers (.frSbox0 n) s (((s.params.sboxS0.get row).get col).setWidth 32) ∧
    Answers (.frSbox1 n) s (((s.params.sboxS1.get row).get col).setWidth 32)

/-- spec/41_feistel_round.md R143, R149. -/
def Obligations.FrFIsTheRoundFunction : Prop :=
  WordRuns 0x25#8 0xFFFFF000#32 (fun x => .frF (x.extractLsb' 4 8) (x.extractLsb' 0 4)) ∧
  ∀ (sk : Byte) (r : Half) (s : State),
    let x : Byte := (pick r [3, 0, 1, 2, 1, 2, 3, 0]).setWidth 8 ^^^ sk
    let y : Half := sbox s.params.sboxS0 (x.extractLsb' 4 4) ++ sbox s.params.sboxS1 (x.extractLsb' 0 4)
    Answers (.frF sk r) s (pick y [1, 3, 2, 0])

/-- spec/41_feistel_round.md R149, corner cases: complementing both operands changes nothing. -/
def Obligations.TheRoundFunctionIgnoresComplementingBoth : Prop :=
  ∀ (sk : Byte) (r : Half) (s : State),
    (afterCommand (.frF (~~~ sk) (~~~ r)) s).res = (afterCommand (.frF sk r) s).res

/-- spec/41_feistel_round.md R150, with its corner cases: a second round with the same key undoes the first,
whatever the S-boxes hold. -/
def Obligations.FrFkIsOneRoundAndUndoesItself : Prop :=
  WordRuns 0x26#8 0xFFFF0000#32 (fun x => .frFk (x.extractLsb' 8 8) (x.extractLsb' 0 8)) ∧
  (∀ (sk b : Byte) (s : State),
    Answers (.frFk sk b) s (((b.extractLsb' 4 4 ^^^ roundF s.params (b.extractLsb' 0 4) sk) ++ b.extractLsb' 0 4).setWidth 32)) ∧
  (∀ (sk b : Byte) (s : State),
    let t := afterCommand (.frFk sk b) s
    (afterCommand (.frFk sk (t.res.extractLsb' 0 8)) t).res = b.setWidth 32 ∧ t.res.extractLsb' 0 4 = b.extractLsb' 0 4)

/-- spec/42_block_cipher.md R171, R172, R173. -/
def Obligations.BlockPermutationsSelectPositions : Prop :=
  WordRuns 0x30#8 0xFFFFFF00#32 (fun x => .bcIp (x.extractLsb' 0 8)) ∧
  WordRuns 0x31#8 0xFFFFFF00#32 (fun x => .bcIpinv (x.extractLsb' 0 8)) ∧
  WordRuns 0x32#8 0xFFFFFF00#32 (fun x => .bcSw (x.extractLsb' 0 8)) ∧
  (∀ (b : Byte) (s : State), Answers (.bcIp b) s (pick b [1, 5, 2, 0, 3, 7, 4, 6])) ∧
  (∀ (b : Byte) (s : State), Answers (.bcIpinv b) s (pick b [3, 0, 2, 4, 6, 1, 7, 5])) ∧
  (∀ (b : Byte) (s : State), Answers (.bcSw b) s (pick b [4, 5, 6, 7, 0, 1, 2, 3]))

/-- spec/42_block_cipher.md R170, and the involution of R173. -/
def Obligations.BlockPermutationsUndoEachOther : Prop :=
  ∀ (b : Byte) (s : State),
    let ip := afterCommand (.bcIp b) s
    let inv := afterCommand (.bcIpinv b) s
    let sw := afterCommand (.bcSw b) s
    (afterCommand (.bcIpinv (ip.res.extractLsb' 0 8)) ip).res = b.setWidth 32 ∧
    (afterCommand (.bcIp (inv.res.extractLsb' 0 8)) inv).res = b.setWidth 32 ∧
    (afterCommand (.bcSw (sw.res.extractLsb' 0 8)) sw).res = b.setWidth 32

/-- spec/42_block_cipher.md R174, R175, R177: K1 first, then K2. -/
def Obligations.BcEncEnciphersUnderTheLoadedKey : Prop :=
  WordRuns 0x33#8 0xFFFFFF00#32 (fun x => .bcEnc (x.extractLsb' 0 8)) ∧
  ∀ (b : Byte) (s : State),
    (s.status.kv = false → FailsWith (.bcEnc b) s 3#4) ∧
    (s.status.kv = true → ∃ t trace, exec (.bcEnc b) s = .next t ∧
      BlockValues s.params b (k1Of s) (k2Of s) trace ∧ TracedBlock s t trace)

/-- spec/42_block_cipher.md R174, R176, R177: K2 first, then K1. -/
def Obligations.BcDecDeciphersUnderTheLoadedKey : Prop :=
  WordRuns 0x34#8 0xFFFFFF00#32 (fun x => .bcDec (x.extractLsb' 0 8)) ∧
  ∀ (b : Byte) (s : State),
    (s.status.kv = false → FailsWith (.bcDec b) s 3#4) ∧
    (s.status.kv = true → ∃ t trace, exec (.bcDec b) s = .next t ∧
      BlockValues s.params b (k2Of s) (k1Of s) trace ∧ TracedBlock s t trace)

/-- spec/42_block_cipher.md R178, R179. -/
def Obligations.BcEnckAndBcDeckUseTheirOwnKey : Prop :=
  WordRuns 0x35#8 0xFFFC0000#32 (fun x => .bcEnck (x.extractLsb' 8 10) (x.extractLsb' 0 8)) ∧
  WordRuns 0x36#8 0xFFFC0000#32 (fun x => .bcDeck (x.extractLsb' 8 10) (x.extractLsb' 0 8)) ∧
  ∀ (key : Key) (b : Byte) (s : State),
    (∃ trace, BlockValues s.params b (subkeyOne key) (subkeyTwo key) trace ∧
      Answers (.bcEnck key b) s (trace.tbk8.setWidth 32)) ∧
    (∃ trace, BlockValues s.params b (subkeyTwo key) (subkeyOne key) trace ∧
      Answers (.bcDeck key b) s (trace.tbk8.setWidth 32)) ∧
    (afterCommand (.bcEnck key b) s).res = (afterCommand (.bcEnc b) (afterCommand (.ksLoad key) s)).res ∧
    (afterCommand (.bcDeck key b) s).res = (afterCommand (.bcDec b) (afterCommand (.ksLoad key) s)).res

/-- spec/42_block_cipher.md R174: the block transform is IP, a round, the swap, a round and IP^-1, each run
as its own command. -/
def Obligations.TheRoundCommandsComputeTheBlock : Prop :=
  ∀ (b : Byte) (s : State), s.status.kv = true →
    let ip := afterCommand (.bcIp b) s
    let r1 := afterCommand (.frFk (k1Of s) (ip.res.extractLsb' 0 8)) ip
    let sw := afterCommand (.bcSw (r1.res.extractLsb' 0 8)) r1
    let r2 := afterCommand (.frFk (k2Of s) (sw.res.extractLsb' 0 8)) sw
    (afterCommand (.bcIpinv (r2.res.extractLsb' 0 8)) r2).res = (afterCommand (.bcEnc b) s).res

/-- spec/42_block_cipher.md R180: deciphering undoes enciphering, whatever the S-boxes hold. -/
def Obligations.DecipheringUndoesEnciphering : Prop :=
  (∀ (b : Byte) (s : State), s.status.kv = true → ∃ t u, exec (.bcEnc b) s = .next t ∧
    exec (.bcDec (t.res.extractLsb' 0 8)) t = .next u ∧ u.res = b.setWidth 32) ∧
  (∀ (key : Key) (b : Byte) (s : State), ∃ t u, exec (.bcEnck key b) s = .next t ∧
    exec (.bcDeck key (t.res.extractLsb' 0 8)) t = .next u ∧ u.res = b.setWidth 32)

/-- spec/42_block_cipher.md R181: the trace of deciphering mirrors that of enciphering. -/
def Obligations.TheDecipheringTraceMirrorsTheEnciphering : Prop :=
  ∀ (b : Byte) (s : State), s.status.kv = true → s.status.tbv = false →
    let t := afterCommand (.bcEnc b) s
    let u := afterCommand (.bcDec t.tbk.tbk8) s
    u.tbk.tbk1 = t.tbk.tbk7 ∧ u.tbk.tbk2 = t.tbk.tbk5 ∧ u.tbk.tbk3 = t.tbk.tbk4.extractLsb' 4 4 ∧
      u.tbk.tbk5 = t.tbk.tbk2 ∧ u.tbk.tbk7 = t.tbk.tbk1 ∧ u.tbk.tbk8 = t.tbk.tbk0

/-- spec/20_memory.md R76: a block's result depends on the block, KEYS, KV and the S-boxes alone, not on the
trace policy or the latency either. -/
def Obligations.BlocksAreIndependent : Prop :=
  (∀ (b : Byte) (s s' : State), s.keys = s'.keys → s.status.kv = s'.status.kv →
    s.params.sboxS0 = s'.params.sboxS0 → s.params.sboxS1 = s'.params.sboxS1 →
    (afterCommand (.bcEnc b) s).res = (afterCommand (.bcEnc b) s').res ∧
    (afterCommand (.bcDec b) s).res = (afterCommand (.bcDec b) s').res) ∧
  (∀ (b b' : Byte) (s : State),
    (afterCommand (.bcEnc b) (afterCommand (.bcEnc b') s)).res = (afterCommand (.bcEnc b) s).res ∧
    (afterCommand (.bcEnc b) (afterCommand (.bcDec b') s)).res = (afterCommand (.bcEnc b) s).res ∧
    (afterCommand (.bcDec b) (afterCommand (.bcEnc b') s)).res = (afterCommand (.bcDec b) s).res ∧
    (afterCommand (.bcDec b) (afterCommand (.bcDec b') s)).res = (afterCommand (.bcDec b) s).res)

/-- spec/70_reset_and_hazards.md R287, R288: which block the trace shows after a key load. -/
def Obligations.TheTraceShowsTheFirstBlockOfAKey : Prop :=
  ∀ (key : Key) (b b' : Byte) (s : State),
    let load := afterCommand (.ksLoad key) s
    let first := afterCommand (.bcEnc b) load
    let second := afterCommand (.bcEnc b') first
    let again := afterCommand (.bcEnc b') (afterCommand (.ksLoad key) second)
    BlockValues s.params b (subkeyOne key) (subkeyTwo key) first.tbk ∧
    (s.params.traceFirstOnly = true → second.tbk = first.tbk) ∧
    (s.params.traceFirstOnly = false → BlockValues s.params b' (subkeyOne key) (subkeyTwo key) second.tbk) ∧
    BlockValues s.params b' (subkeyOne key) (subkeyTwo key) again.tbk ∧
    second.res = again.res

/-- spec/43_codec.md R201. -/
def Obligations.CdT2bRefusesCodesAbove255 : Prop :=
  WordRuns 0x40#8 0xFFFF0000#32 (fun x => .cdT2b (x.extractLsb' 0 16)) ∧
  ∀ (c : CharCode) (s : State),
    (c.toNat ≤ 255 → Answers (.cdT2b c) s (BitVec.ofNat 32 c.toNat)) ∧ (255 < c.toNat → FailsWith (.cdT2b c) s 4#4)

/-- spec/43_codec.md R202. -/
def Obligations.CdB2tGivesTheCharacterCode : Prop :=
  WordRuns 0x41#8 0xFFFFFF00#32 (fun x => .cdB2t (x.extractLsb' 0 8)) ∧
  ∀ (b : Byte) (s : State), Answers (.cdB2t b) s (BitVec.ofNat 32 b.toNat)

/-- spec/43_codec.md R203, R204, R205. -/
def Obligations.CdB64eEncodesOneGroup : Prop :=
  WordRuns 0x42#8 0xFC000000#32
    (fun x => .cdB64e (x.extractLsb' 24 2) (x.extractLsb' 16 8) (x.extractLsb' 8 8) (x.extractLsb' 0 8)) ∧
  ∀ (b0 b1 b2 : Byte) (s : State),
    let w : BitVec 24 := b0 ++ b1 ++ b2
    let c0 := code64 (w.extractLsb' 18 6)
    let c1 := code64 (w.extractLsb' 12 6)
    let c2 := code64 (w.extractLsb' 6 6)
    let c3 := code64 (w.extractLsb' 0 6)
    Answers (.cdB64e 3#2 b0 b1 b2) s (c0 ++ c1 ++ c2 ++ c3) ∧
    (b2 = 0#8 → Answers (.cdB64e 2#2 b0 b1 b2) s (c0 ++ c1 ++ c2 ++ equalsSign)) ∧
    (b1 = 0#8 → b2 = 0#8 → Answers (.cdB64e 1#2 b0 b1 b2) s (c0 ++ c1 ++ equalsSign ++ equalsSign)) ∧
    FailsWith (.cdB64e 0#2 b0 b1 b2) s 6#4 ∧
    (b2 ≠ 0#8 → FailsWith (.cdB64e 2#2 b0 b1 b2) s 2#4) ∧
    (b1 ≠ 0#8 ∨ b2 ≠ 0#8 → FailsWith (.cdB64e 1#2 b0 b1 b2) s 2#4)

/-- spec/43_codec.md R206, R207. -/
def Obligations.CdB64dDecodesOneGroup : Prop :=
  WordRuns 0x43#8 0x00000000#32
    (fun x => .cdB64d (x.extractLsb' 24 8) (x.extractLsb' 16 8) (x.extractLsb' 8 8) (x.extractLsb' 0 8)) ∧
  (∀ (v0 v1 v2 v3 : BitVec 6) (s : State),
    Answers (.cdB64d (code64 v0) (code64 v1) (code64 v2) (code64 v3)) s ((3#2 ++ (v0 ++ v1 ++ v2 ++ v3)).setWidth 32) ∧
    Answers (.cdB64d (code64 v0) (code64 v1) (code64 v2) equalsSign) s
      ((2#2 ++ (v0 ++ v1 ++ v2).extractLsb' 2 16 ++ 0#8).setWidth 32) ∧
    Answers (.cdB64d (code64 v0) (code64 v1) equalsSign equalsSign) s
      ((1#2 ++ (v0 ++ v1).extractLsb' 4 8 ++ 0#16).setWidth 32)) ∧
  (∀ (c0 c1 c2 c3 : Byte) (s : State), Malformed c0 c1 c2 c3 → FailsWith (.cdB64d c0 c1 c2 c3) s 5#4)

/-- spec/43_codec.md R208. -/
def Obligations.CdHexGivesTwoUppercaseDigits : Prop :=
  WordRuns 0x44#8 0xFFFFFF00#32 (fun x => .cdHex (x.extractLsb' 0 8)) ∧
  ∀ (b : Byte) (s : State),
    Answers (.cdHex b) s ((hexCode (b.extractLsb' 4 4) ++ hexCode (b.extractLsb' 0 4)).setWidth 32)

/-- spec/43_codec.md R210 (a), (b), (c) for one group, (d). -/
def Obligations.CodecCommandsRoundTrip : Prop :=
  (∀ (c : CharCode) (s : State), c.toNat ≤ 255 →
    let t := afterCommand (.cdT2b c) s
    (afterCommand (.cdB2t (t.res.extractLsb' 0 8)) t).res = c.setWidth 32) ∧
  (∀ (b : Byte) (s : State),
    let t := afterCommand (.cdB2t b) s
    (afterCommand (.cdT2b (t.res.extractLsb' 0 16)) t).res = b.setWidth 32) ∧
  (∀ (cnt : BitVec 2) (b0 b1 b2 : Byte) (s : State), WellFormed (.cdB64e cnt b0 b1 b2) = true →
    let t := afterCommand (.cdB64e cnt b0 b1 b2) s
    (afterCommand (.cdB64d (t.res.extractLsb' 24 8) (t.res.extractLsb' 16 8) (t.res.extractLsb' 8 8) (t.res.extractLsb' 0 8)) t).res =
      (cnt ++ b0 ++ b1 ++ b2).setWidth 32) ∧
  (∀ s : State,
    let t := afterCommand (.cdB64d 0x51#8 0x52#8 0x3D#8 0x3D#8) s
    (afterCommand (.cdB64e (t.res.extractLsb' 24 2) (t.res.extractLsb' 16 8) (t.res.extractLsb' 8 8) (t.res.extractLsb' 0 8)) t).res
      = 0x51513D3D#32)

/-- spec/43_codec.md R209, R210 (c): the whole-message Base64 procedures, for every byte sequence (the host's
procedures as the model writes them: log 15). -/
def Obligations.Base64MessagesRoundTrip : Prop :=
  ∀ (bytes : List Byte) (s : State), ∃ cs t u,
    binaryToBase64 bytes s = (.ok cs, t) ∧ base64ToBinary cs t = (.ok bytes, u)

/-- spec/43_codec.md R209 with R180 and R210: decrypting an encrypted text under the same key gives the text,
for every S-box content, every key and every text of codes up to 255 (log 15). -/
def Obligations.DecryptingAnEncryptedTextGivesItBack : Prop :=
  ∀ (text : List CharCode) (key : Key) (s : State), (∀ c ∈ text, c.toNat ≤ 255) → ∃ cs t u,
    encryptText text key s = (.ok cs, t) ∧ decryptText cs key t = (.ok text, u)

/-- spec/43_codec.md R209: a character above 255 aborts the conversion with no output (log 15). -/
def Obligations.AWideCharacterAbortsTheText : Prop :=
  ∀ (text : List CharCode) (s : State),
    ((textToBinary text s).1 = .error .charRange ↔ ∃ c ∈ text, 255 < c.toNat) ∧
    ((∀ c ∈ text, c.toNat ≤ 255) → (textToBinary text s).1 = .ok (text.map fun c => c.setWidth 8))

/-- spec/70_reset_and_hazards.md R283, spec/60_exceptions.md R256: a key string is accepted exactly when it is
ten characters 0 or 1, and its character `i` is the key's position `i` (log 15). -/
def Obligations.AKeyStringIsTenBits : Prop :=
  ∀ (str : List Char) (key : Key),
    packKey str = .ok key ↔ str = (List.range 10).map fun i => if key.getMsbD i then '1' else '0'

/-- spec/44_control.md R240. -/
def Obligations.CtlNopWritesZero : Prop :=
  WordRuns 0x00#8 0xFFFFFFFF#32 (fun _ => .ctlNop) ∧ ∀ s : State, Answers .ctlNop s 0#32

/-- spec/44_control.md R241, spec/10_state.md R47. -/
def Obligations.CtlClrZeroesEveryRegister : Prop :=
  WordRuns 0x01#8 0xFFFFFFFF#32 (fun _ => .ctlClr) ∧
  ∀ s : State, ∃ t, exec .ctlClr s = .next t ∧ ZeroRegs t ∧ SamePorts s t

/-- spec/10_state.md R47. -/
def Obligations.ResetLeavesEveryRegisterZero : Prop := ZeroRegs State.reset

/-- The state after reset is coherent. -/
def Obligations.ResetIsCoherent : Prop := Coherent State.reset

/-- spec/10_state.md R33 to R41: what the registers say of each other holds in every state a step leaves. That
no command is in flight while `rst` is 1 rests on log 8. -/
def Obligations.EveryStepKeepsCoherence : Prop := ∀ s t : State, Coherent s → step s = .next t → Coherent t

/-- spec/20_memory.md R61 and the layouts of spec/10_state.md R32, R34, R36, R38, R39. -/
def Obligations.TheReadSpaceShowsTheRegisters : Prop :=
  ∀ s : State,
    readReg s 0x00#8 = s.res ∧
    readReg s 0x01#8 = BitVec.ofNat 32 (s.status.err.toNat + 2 ^ 8 * s.status.kv.toNat + 2 ^ 9 * s.status.tbv.toNat +
      2 ^ 16 * s.status.estk.toNat) ∧
    readReg s 0x02#8 = (k1Of s ++ k2Of s).setWidth 32 ∧
    readReg s 0x10#8 = s.tks.tks0.setWidth 32 ∧ readReg s 0x11#8 = s.tks.tks1.setWidth 32 ∧
    readReg s 0x12#8 = s.tks.tks2.setWidth 32 ∧ readReg s 0x13#8 = s.tks.tks3.setWidth 32 ∧
    readReg s 0x14#8 = s.tks.tks4.setWidth 32 ∧ readReg s 0x15#8 = s.tks.tks5.setWidth 32 ∧
    readReg s 0x18#8 = s.tbk.tbk0.setWidth 32 ∧ readReg s 0x19#8 = s.tbk.tbk1.setWidth 32 ∧
    readReg s 0x1A#8 = s.tbk.tbk2.setWidth 32 ∧ readReg s 0x1B#8 = s.tbk.tbk3.setWidth 32 ∧
    readReg s 0x1C#8 = s.tbk.tbk4.setWidth 32 ∧ readReg s 0x1D#8 = s.tbk.tbk5.setWidth 32 ∧
    readReg s 0x1E#8 = s.tbk.tbk6.setWidth 32 ∧ readReg s 0x1F#8 = s.tbk.tbk7.setWidth 32 ∧
    readReg s 0x20#8 = s.tbk.tbk8.setWidth 32 ∧
    ∀ a : RAddr, (0x03 ≤ a.toNat ∧ a.toNat ≤ 0x0F) ∨ a.toNat = 0x16 ∨ a.toNat = 0x17 ∨ 0x21 ≤ a.toNat → readReg s a = 0#32

/-- spec/20_memory.md R62, R73: a read changes no register, and with nothing in flight and `rst` low it
returns the register's value (the two reading actions: log 9). -/
def Obligations.ReadsChangeNoRegister : Prop :=
  ∀ (s : State) (a : RAddr) (rest : List HostAction),
    (s.host = .readNow a :: rest ∨ s.host = .read a :: rest ∧ s.inFlight = none → ∃ t, step s = .next t ∧ SameRegs s t ∧
      t.params = s.params ∧ t.rst = s.rst ∧ t.inFlight = s.inFlight ∧ t.host = rest ∧ t.rdAddr = a) ∧
    (s.host = .readNow a :: rest ∨ s.host = .read a :: rest → s.inFlight = none → s.rst = false → ∃ t, step s = .next t ∧
      t.rdData = readReg s a)

/-- spec/20_memory.md R73: a read made while a command is in flight returns the value before it or after it
(which one is free: log 5). -/
def Obligations.ARacingReadIsOldOrNew : Prop :=
  ∀ (s : State) (a : RAddr) (rest : List HostAction) (w : CmdWord), s.host = .readNow a :: rest → s.inFlight = some w →
    ∃ t u, step s = .next t ∧ runWord w s = .next u ∧ (t.rdData = readReg s a ∨ t.rdData = readReg u a)

/-- spec/70_reset_and_hazards.md R280: a reset abandons the command in flight, and at its end every register
is 0 and the parameters stand. The instants are the model's choice (log 7, log 8, log 17). -/
def Obligations.AResetAbandonsTheCommandAndZeroesTheRegisters : Prop :=
  (∀ (s : State) (rest : List HostAction), s.host = .raiseRst :: rest → ∃ t, step s = .next t ∧ SameRegs s t ∧
    t.rst = true ∧ t.inFlight = none ∧ cmdReady t = false ∧ t.params = s.params ∧ t.host = rest) ∧
  (∀ (s : State) (rest : List HostAction), s.host = .dropRst :: rest → s.rst = true → s.inFlight = none → ∃ t,
    step s = .next t ∧ ZeroRegs t ∧ t.rst = false ∧ cmdReady t = true ∧ t.params = s.params ∧ t.host = rest) ∧
  (∀ (s : State) (rest : List HostAction), s.host = .powerCycle :: rest → ∃ t,
    step s = .next t ∧ ZeroRegs t ∧ cmdReady t = true ∧ t.params = s.params ∧ t.host = rest)

/-- spec/70_reset_and_hazards.md R291: an accepted command is in flight no longer after finitely many steps,
at most one more than the host's actions (the bound is of the model's steps: log 9). -/
def Obligations.AnAcceptedCommandEnds : Prop :=
  ∀ (s : State) (w : CmdWord), s.inFlight = some w → ∃ k t, k ≤ s.host.length + 1 ∧
    Sys2Proof.core.run k s = .next t ∧ State.inFlight t = none

/-- spec/10_state.md R42, spec/70_reset_and_hazards.md R280: no step changes a parameter. -/
def Obligations.NoStepChangesAParameter : Prop := ∀ s t : State, step s = .next t → t.params = s.params

/-- spec/70_reset_and_hazards.md R291, spec/93_implementation_defined.md I10: no step depends on CMD_LATENCY. -/
def Obligations.NoStepDependsOnTheLatency : Prop :=
  ∀ (s t : State) (n : Nat), step s = .next t → step (withLatency n s) = .next (withLatency n t)

/-- spec/20_memory.md R69: issuing a word twice leaves the same state as issuing it once. -/
def Obligations.RepeatingAWordChangesNothing : Prop :=
  ∀ (w : CmdWord) (s t : State), runWord w s = .next t → runWord w t = .next t

/-- spec/10_state.md R32, R36, R37, R40, the "written by" column: which events change which registers. That a
command writes in one step, its completion, and that a reset writes in the one step in which `rst` falls or
power returns, is the model's choice (log 7, log 9, log 17). -/
def Obligations.RegistersChangeOnlyByTheirCommands : Prop :=
  ∀ s t : State, step s = .next t →
    (t.keys ≠ s.keys ∨ t.tks ≠ s.tks ∨ t.status.kv ≠ s.status.kv →
      (∃ key, Completes s (.ksLoad key)) ∨ Completes s .ctlClr ∨ ResetComes s) ∧
    (t.tbk ≠ s.tbk → (∃ b, Completes s (.bcEnc b) ∨ Completes s (.bcDec b)) ∨ Completes s .ctlClr ∨ ResetComes s) ∧
    (s.status.tbv = false → t.status.tbv = true → ∃ b, Completes s (.bcEnc b) ∨ Completes s (.bcDec b)) ∧
    (s.status.tbv = true → t.status.tbv = false →
      (∃ key, Completes s (.ksLoad key)) ∨ Completes s .ctlClr ∨ ResetComes s) ∧
    (t.res ≠ s.res ∨ t.status.err ≠ s.status.err → (hostWaits s = true ∧ s.inFlight ≠ none) ∨ ResetComes s)

/-- spec/30_encoding.md R88: operands are read exactly when each is its field's value, in the order of R82, and
a command is written with its own mnemonic in upper or lower case, and with no other name (log 16). -/
def Obligations.TheAssemblerNeverTruncates : Prop :=
  (∀ (op : Byte) (xs : List Nat) (i : Instr),
    asmOperands op (xs.map .number) = some i ↔ opByte i = op ∧ Spells xs i) ∧
  (∀ (code : Nat) (i : Instr), asmOperands 0x40#8 [.character code] = some i ↔ opByte i = 0x40#8 ∧ [code] = operandValues i) ∧
  (∀ (codes : List Nat) (i : Instr), asmOperands 0x43#8 [.string codes] = some i ↔ opByte i = 0x43#8 ∧ codes = operandValues i) ∧
  (∀ row ∈ mnemonicRows, asmOp row.1.toList = some row.2.2 ∧ asmOp row.2.1.toList = some row.2.2) ∧
  (∀ (name : List Char) (op : Byte), asmOp name = some op → ∃ row ∈ mnemonicRows, row.2.2 = op ∧ Names name row) ∧
  (∀ (name : List Char) (operands : List (List Char)) (i : Instr),
    assemble name operands = some i ↔
      ∃ op xs, asmOp name = some op ∧ operands.mapM readOperand = some xs ∧ asmOperands op xs = some i)

/-- spec/30_encoding.md R88: a decimal, `0x` or `0b` literal of any length is read as its value in its base, a
character literal as its code, and a string literal as its characters' codes. That a quote of either kind is
read between single quotes, and that no character is an escape, is the model's choice (log 16). -/
def Obligations.LiteralsAreReadAsTheirValues : Prop :=
  (∀ ds : List (Fin 10), ds ≠ [] → readOperand (digitChars "0123456789" ds) = some (.number (digitsValue ds))) ∧
  (∀ ds : List (Fin 16), ds ≠ [] →
    readOperand ('0' :: 'x' :: digitChars "0123456789ABCDEF" ds) = some (.number (digitsValue ds)) ∧
    readOperand ('0' :: 'x' :: digitChars "0123456789abcdef" ds) = some (.number (digitsValue ds))) ∧
  (∀ ds : List (Fin 2), ds ≠ [] → readOperand ('0' :: 'b' :: digitChars "01" ds) = some (.number (digitsValue ds))) ∧
  (∀ c : Char, readOperand ['\'', c, '\''] = some (.character c.toNat)) ∧
  (∀ cs : List Char, '"' ∉ cs → readOperand ('"' :: (cs ++ ['"'])) = some (.string (cs.map Char.toNat)))
end

