-- ==== Sys2Proof/Laws/Bits.lean ====
section
/-! SUPPORT. What `perm` and the field primitives do to each bit (spec/00_scope.md R10 to R13). -/

namespace Sys2Proof.Machine

/-- A value built bit by bit, first bit most significant: bit `j` is the `j`-th of the bits from the end. -/
theorem getLsbD_foldl_shiftConcat {α : Type} {m : Nat} (g : α → Bool) (l : List α) (a : BitVec m) (j : Nat) (hj : j < m) :
    (l.foldl (fun r p => r.shiftConcat (g p)) a).getLsbD j =
      if h : j < l.length then g (l[l.length - 1 - j]'(by omega)) else a.getLsbD (j - l.length) := by
  induction l generalizing a with
  | nil => simp
  | cons p l ih =>
    rw [List.foldl_cons, ih]
    by_cases h : j < l.length
    · have hne : l.length - j ≠ 0 := by omega
      have : (p :: l).length - 1 - j = (l.length - 1 - j) + 1 := by simp only [List.length_cons]; omega
      have hj' : j < (p :: l).length := by simp only [List.length_cons]; omega
      simp only [h, hj', dite_true, this, List.getElem_cons_succ]
    · by_cases h0 : j = l.length
      · subst h0
        have hj' : l.length < (p :: l).length := by simp
        simp [BitVec.getLsbD_shiftConcat]
        omega
      · have hj' : ¬ j < (p :: l).length := by simp only [List.length_cons]; omega
        simp only [h, hj', dite_false, BitVec.getLsbD_shiftConcat]
        have h1 : j - l.length ≠ 0 := by omega
        have h2 : j - l.length < m := by omega
        have h3 : j - l.length - 1 = j - (p :: l).length := by simp only [List.length_cons]; omega
        simp [h1, h2, h3]

/-- R12: output position `i` of `perm` is input position `T[i]`. -/
theorem strBit_perm {n m : Nat} (T : Vector (Fin n) m) (v : BitVec n) (i : Nat) (hi : i < m) :
    strBit (perm T v) i = strBit v T[i] := by
  have hlt : m - 1 - i < m := by omega
  have hlen : T.toList.length = m := by simp
  have hidx : m - 1 - (m - 1 - i) = i := by omega
  unfold strBit perm
  rw [BitVec.getMsbD_eq_getLsbD, getLsbD_foldl_shiftConcat (fun p : Fin n => strBit v p) T.toList 0#m (m - 1 - i) hlt]
  simp [hi, hlt, hidx, strBit]

/-- Two values with the same string positions are equal (R11). -/
theorem eq_of_strBit {n : Nat} {x y : BitVec n} (h : ∀ i, i < n → strBit x i = strBit y i) : x = y :=
  BitVec.eq_of_getMsbD_eq (fun i hi => h i hi)

/-- A zero-extended value is the value again when its own bits are taken. -/
@[simp] theorem extractLsb'_zext32 {n : Nat} (v : BitVec n) (h : n ≤ 32) : (zext32 v).extractLsb' 0 n = v := by
  apply BitVec.eq_of_getLsbD_eq
  intro i hi
  have : i < 32 := by omega
  simp [zext32, hi, this]

/-- A value is its high part put before its low part. -/
theorem append_extractLsb' {n m : Nat} (v : BitVec (n + m)) : v.extractLsb' m n ++ v.extractLsb' 0 m = v := by
  apply BitVec.eq_of_getLsbD_eq
  intro i hi
  rw [BitVec.getLsbD_append]
  by_cases h : i < m
  · simp [h]
  · have h8 : i - m < n := by omega
    have e : m + (i - m) = i := by omega
    simp [h, h8, e]

/-- The two halves of a byte put together are the byte. -/
@[simp] theorem hi4_append_lo4 (b : Byte) : hi4 b ++ lo4 b = b := append_extractLsb' (n := 4) (m := 4) b

@[simp] theorem hi4_append (x y : Half) : hi4 (x ++ y) = x := BitVec.extractLsb'_append_eq_left

@[simp] theorem lo4_append (x y : Half) : lo4 (x ++ y) = y := BitVec.extractLsb'_append_eq_right

end Sys2Proof.Machine
end

