-- ==== Sys2Proof/Laws/Decode.lean ====
section
/-! SUPPORT. The two parts of a command word, and what the decoder answers row by row (spec/30_encoding.md R80 to R87). -/

namespace Sys2Proof

@[simp] theorem opOf_append (op : Byte) (arg : Word) : opOf (op ++ arg) = op := BitVec.extractLsb'_append_eq_left

@[simp] theorem argOf_append (op : Byte) (arg : Word) : argOf (op ++ arg) = arg := BitVec.extractLsb'_append_eq_right

/-- A word is its OP and its ARG. -/
theorem opOf_append_argOf (w : CmdWord) : opOf w ++ argOf w = w := Machine.append_extractLsb' (n := 8) (m := 32) w

/-- A word whose OP has no row is ILLEGAL_OP (R86). -/
theorem decode_of_no_row (w : CmdWord) (h : opRow (opOf w) = none) : decode w = .error .illegalOp := by
  simp [decode, h]

/-- A word whose OP has a row is its command, or RESERVED_NONZERO (R84). -/
theorem decode_of_row (w : CmdWord) (r : OpRow) (h : opRow (opOf w) = some r) :
    decode w = if argOf w &&& rsv r.format = 0#32 then .ok (r.build (argOf w)) else .error .reservedNonzero := by
  simp [decode, h]

/-- The decoder raises no other error than its two (R87). -/
theorem decode_error {w : CmdWord} {e : ErrCode} (h : decode w = .error e) : e = .illegalOp ∨ e = .reservedNonzero := by
  unfold decode at h
  split at h
  · exact .inl (by cases h; rfl)
  · split at h
    · cases h
    · exact .inr (by cases h; rfl)

/-- No two rows of the opcode map share an OP (R85). -/
theorem opRows_distinct : (opRows.map OpRow.op).Pairwise (· ≠ ·) := by decide

end Sys2Proof
end

