-- ==== Sys2Proof/Laws/State.lean ====
section
/-! SUPPORT. What each named update does to each field of the state, one lemma per field. -/

namespace Sys2Proof.Machine

@[simp] theorem succeed_res (r : Word) (s : State) : (succeed r s).res = r := rfl
@[simp] theorem succeed_status (r : Word) (s : State) : (succeed r s).status = statusOk s.status := rfl
@[simp] theorem succeed_keys (r : Word) (s : State) : (succeed r s).keys = s.keys := rfl
@[simp] theorem succeed_tks (r : Word) (s : State) : (succeed r s).tks = s.tks := rfl
@[simp] theorem succeed_tbk (r : Word) (s : State) : (succeed r s).tbk = s.tbk := rfl
@[simp] theorem succeed_params (r : Word) (s : State) : (succeed r s).params = s.params := rfl
@[simp] theorem succeed_rst (r : Word) (s : State) : (succeed r s).rst = s.rst := rfl
@[simp] theorem succeed_inFlight (r : Word) (s : State) : (succeed r s).inFlight = s.inFlight := rfl
@[simp] theorem succeed_rdAddr (r : Word) (s : State) : (succeed r s).rdAddr = s.rdAddr := rfl
@[simp] theorem succeed_rdData (r : Word) (s : State) : (succeed r s).rdData = s.rdData := rfl
@[simp] theorem succeed_host (r : Word) (s : State) : (succeed r s).host = s.host := rfl
@[simp] theorem succeed_nRace (r : Word) (s : State) : (succeed r s).nRace = s.nRace := rfl

@[simp] theorem raiseError_res (e : ErrCode) (s : State) : (raiseError e s).res = 0#32 := rfl
@[simp] theorem raiseError_status (e : ErrCode) (s : State) : (raiseError e s).status = statusError e s.status := rfl
@[simp] theorem raiseError_keys (e : ErrCode) (s : State) : (raiseError e s).keys = s.keys := rfl
@[simp] theorem raiseError_tks (e : ErrCode) (s : State) : (raiseError e s).tks = s.tks := rfl
@[simp] theorem raiseError_tbk (e : ErrCode) (s : State) : (raiseError e s).tbk = s.tbk := rfl
@[simp] theorem raiseError_params (e : ErrCode) (s : State) : (raiseError e s).params = s.params := rfl
@[simp] theorem raiseError_rst (e : ErrCode) (s : State) : (raiseError e s).rst = s.rst := rfl
@[simp] theorem raiseError_inFlight (e : ErrCode) (s : State) : (raiseError e s).inFlight = s.inFlight := rfl
@[simp] theorem raiseError_rdAddr (e : ErrCode) (s : State) : (raiseError e s).rdAddr = s.rdAddr := rfl
@[simp] theorem raiseError_rdData (e : ErrCode) (s : State) : (raiseError e s).rdData = s.rdData := rfl
@[simp] theorem raiseError_host (e : ErrCode) (s : State) : (raiseError e s).host = s.host := rfl
@[simp] theorem raiseError_nRace (e : ErrCode) (s : State) : (raiseError e s).nRace = s.nRace := rfl

@[simp] theorem writeKey_res (k : BitVec 16) (t : KeyTrace) (s : State) : (writeKey k t s).res = s.res := rfl
@[simp] theorem writeKey_status (k : BitVec 16) (t : KeyTrace) (s : State) : (writeKey k t s).status = statusKeyLoaded s.status := rfl
@[simp] theorem writeKey_keys (k : BitVec 16) (t : KeyTrace) (s : State) : (writeKey k t s).keys = k := rfl
@[simp] theorem writeKey_tks (k : BitVec 16) (t : KeyTrace) (s : State) : (writeKey k t s).tks = t := rfl
@[simp] theorem writeKey_tbk (k : BitVec 16) (t : KeyTrace) (s : State) : (writeKey k t s).tbk = s.tbk := rfl
@[simp] theorem writeKey_params (k : BitVec 16) (t : KeyTrace) (s : State) : (writeKey k t s).params = s.params := rfl
@[simp] theorem writeKey_rst (k : BitVec 16) (t : KeyTrace) (s : State) : (writeKey k t s).rst = s.rst := rfl
@[simp] theorem writeKey_inFlight (k : BitVec 16) (t : KeyTrace) (s : State) : (writeKey k t s).inFlight = s.inFlight := rfl
@[simp] theorem writeKey_rdAddr (k : BitVec 16) (t : KeyTrace) (s : State) : (writeKey k t s).rdAddr = s.rdAddr := rfl
@[simp] theorem writeKey_rdData (k : BitVec 16) (t : KeyTrace) (s : State) : (writeKey k t s).rdData = s.rdData := rfl
@[simp] theorem writeKey_host (k : BitVec 16) (t : KeyTrace) (s : State) : (writeKey k t s).host = s.host := rfl
@[simp] theorem writeKey_nRace (k : BitVec 16) (t : KeyTrace) (s : State) : (writeKey k t s).nRace = s.nRace := rfl

@[simp] theorem clearRegs_res (s : State) : (clearRegs s).res = 0#32 := rfl
@[simp] theorem clearRegs_status (s : State) : (clearRegs s).status = Status.reset := rfl
@[simp] theorem clearRegs_keys (s : State) : (clearRegs s).keys = 0#16 := rfl
@[simp] theorem clearRegs_tks (s : State) : (clearRegs s).tks = KeyTrace.reset := rfl
@[simp] theorem clearRegs_tbk (s : State) : (clearRegs s).tbk = BlockTrace.reset := rfl
@[simp] theorem clearRegs_params (s : State) : (clearRegs s).params = s.params := rfl
@[simp] theorem clearRegs_rst (s : State) : (clearRegs s).rst = s.rst := rfl
@[simp] theorem clearRegs_inFlight (s : State) : (clearRegs s).inFlight = s.inFlight := rfl
@[simp] theorem clearRegs_rdAddr (s : State) : (clearRegs s).rdAddr = s.rdAddr := rfl
@[simp] theorem clearRegs_rdData (s : State) : (clearRegs s).rdData = s.rdData := rfl
@[simp] theorem clearRegs_host (s : State) : (clearRegs s).host = s.host := rfl
@[simp] theorem clearRegs_nRace (s : State) : (clearRegs s).nRace = s.nRace := rfl

@[simp] theorem rstRise_res (s : State) : (rstRise s).res = s.res := rfl
@[simp] theorem rstRise_status (s : State) : (rstRise s).status = s.status := rfl
@[simp] theorem rstRise_keys (s : State) : (rstRise s).keys = s.keys := rfl
@[simp] theorem rstRise_tks (s : State) : (rstRise s).tks = s.tks := rfl
@[simp] theorem rstRise_tbk (s : State) : (rstRise s).tbk = s.tbk := rfl
@[simp] theorem rstRise_params (s : State) : (rstRise s).params = s.params := rfl
@[simp] theorem rstRise_rst (s : State) : (rstRise s).rst = true := rfl
@[simp] theorem rstRise_inFlight (s : State) : (rstRise s).inFlight = none := rfl
@[simp] theorem rstRise_rdAddr (s : State) : (rstRise s).rdAddr = s.rdAddr := rfl
@[simp] theorem rstRise_rdData (s : State) : (rstRise s).rdData = s.rdData := rfl
@[simp] theorem rstRise_host (s : State) : (rstRise s).host = s.host := rfl
@[simp] theorem rstRise_nRace (s : State) : (rstRise s).nRace = s.nRace := rfl

@[simp] theorem latchRead_res (a : RAddr) (v : Word) (s : State) : (latchRead a v s).res = s.res := rfl
@[simp] theorem latchRead_status (a : RAddr) (v : Word) (s : State) : (latchRead a v s).status = s.status := rfl
@[simp] theorem latchRead_keys (a : RAddr) (v : Word) (s : State) : (latchRead a v s).keys = s.keys := rfl
@[simp] theorem latchRead_tks (a : RAddr) (v : Word) (s : State) : (latchRead a v s).tks = s.tks := rfl
@[simp] theorem latchRead_tbk (a : RAddr) (v : Word) (s : State) : (latchRead a v s).tbk = s.tbk := rfl
@[simp] theorem latchRead_params (a : RAddr) (v : Word) (s : State) : (latchRead a v s).params = s.params := rfl
@[simp] theorem latchRead_rst (a : RAddr) (v : Word) (s : State) : (latchRead a v s).rst = s.rst := rfl
@[simp] theorem latchRead_inFlight (a : RAddr) (v : Word) (s : State) : (latchRead a v s).inFlight = s.inFlight := rfl
@[simp] theorem latchRead_rdAddr (a : RAddr) (v : Word) (s : State) : (latchRead a v s).rdAddr = a := rfl
@[simp] theorem latchRead_rdData (a : RAddr) (v : Word) (s : State) : (latchRead a v s).rdData = v := rfl
@[simp] theorem latchRead_host (a : RAddr) (v : Word) (s : State) : (latchRead a v s).host = s.host := rfl
@[simp] theorem latchRead_nRace (a : RAddr) (v : Word) (s : State) : (latchRead a v s).nRace = s.nRace := rfl

@[simp] theorem sampleRead_res (a : RAddr) (s : State) : (sampleRead a s).res = s.res := rfl
@[simp] theorem sampleRead_status (a : RAddr) (s : State) : (sampleRead a s).status = s.status := rfl
@[simp] theorem sampleRead_keys (a : RAddr) (s : State) : (sampleRead a s).keys = s.keys := rfl
@[simp] theorem sampleRead_tks (a : RAddr) (s : State) : (sampleRead a s).tks = s.tks := rfl
@[simp] theorem sampleRead_tbk (a : RAddr) (s : State) : (sampleRead a s).tbk = s.tbk := rfl
@[simp] theorem sampleRead_params (a : RAddr) (s : State) : (sampleRead a s).params = s.params := rfl
@[simp] theorem sampleRead_rst (a : RAddr) (s : State) : (sampleRead a s).rst = s.rst := rfl
@[simp] theorem sampleRead_inFlight (a : RAddr) (s : State) : (sampleRead a s).inFlight = s.inFlight := rfl
@[simp] theorem sampleRead_rdAddr (a : RAddr) (s : State) : (sampleRead a s).rdAddr = a := rfl
@[simp] theorem sampleRead_rdData (a : RAddr) (s : State) : (sampleRead a s).rdData = readValue a s := rfl
@[simp] theorem sampleRead_host (a : RAddr) (s : State) : (sampleRead a s).host = s.host := rfl
@[simp] theorem sampleRead_nRace (a : RAddr) (s : State) : (sampleRead a s).nRace = if readRaces s then s.nRace + 1 else s.nRace := rfl

@[simp] theorem placeWord_res (w : CmdWord) (s : State) : (placeWord w s).res = s.res := rfl
@[simp] theorem placeWord_status (w : CmdWord) (s : State) : (placeWord w s).status = s.status := rfl
@[simp] theorem placeWord_keys (w : CmdWord) (s : State) : (placeWord w s).keys = s.keys := rfl
@[simp] theorem placeWord_tks (w : CmdWord) (s : State) : (placeWord w s).tks = s.tks := rfl
@[simp] theorem placeWord_tbk (w : CmdWord) (s : State) : (placeWord w s).tbk = s.tbk := rfl
@[simp] theorem placeWord_params (w : CmdWord) (s : State) : (placeWord w s).params = s.params := rfl
@[simp] theorem placeWord_rst (w : CmdWord) (s : State) : (placeWord w s).rst = false := rfl
@[simp] theorem placeWord_inFlight (w : CmdWord) (s : State) : (placeWord w s).inFlight = some w := rfl
@[simp] theorem placeWord_rdAddr (w : CmdWord) (s : State) : (placeWord w s).rdAddr = s.rdAddr := rfl
@[simp] theorem placeWord_rdData (w : CmdWord) (s : State) : (placeWord w s).rdData = s.rdData := rfl
@[simp] theorem placeWord_host (w : CmdWord) (s : State) : (placeWord w s).host = [] := rfl
@[simp] theorem placeWord_nRace (w : CmdWord) (s : State) : (placeWord w s).nRace = s.nRace := rfl

@[simp] theorem statusOk_err (st : Status) : (statusOk st).err = 0#4 := rfl
@[simp] theorem statusOk_kv (st : Status) : (statusOk st).kv = st.kv := rfl
@[simp] theorem statusOk_tbv (st : Status) : (statusOk st).tbv = st.tbv := rfl
@[simp] theorem statusOk_estk (st : Status) : (statusOk st).estk = st.estk := rfl

@[simp] theorem statusKeyLoaded_err (st : Status) : (statusKeyLoaded st).err = st.err := rfl
@[simp] theorem statusKeyLoaded_kv (st : Status) : (statusKeyLoaded st).kv = true := rfl
@[simp] theorem statusKeyLoaded_tbv (st : Status) : (statusKeyLoaded st).tbv = false := rfl
@[simp] theorem statusKeyLoaded_estk (st : Status) : (statusKeyLoaded st).estk = st.estk := rfl

@[simp] theorem statusTraceWritten_err (st : Status) : (statusTraceWritten st).err = st.err := rfl
@[simp] theorem statusTraceWritten_kv (st : Status) : (statusTraceWritten st).kv = st.kv := rfl
@[simp] theorem statusTraceWritten_tbv (st : Status) : (statusTraceWritten st).tbv = true := rfl
@[simp] theorem statusTraceWritten_estk (st : Status) : (statusTraceWritten st).estk = st.estk := rfl

@[simp] theorem statusError_err (e : ErrCode) (st : Status) : (statusError e st).err = errNumber e := rfl
@[simp] theorem statusError_kv (e : ErrCode) (st : Status) : (statusError e st).kv = st.kv := rfl
@[simp] theorem statusError_tbv (e : ErrCode) (st : Status) : (statusError e st).tbv = st.tbv := rfl
@[simp] theorem statusError_estk (e : ErrCode) (st : Status) : (statusError e st).estk = true := rfl

@[simp] theorem writeTrace_res (t : BlockTrace) (s : State) : (writeTrace t s).res = s.res := by unfold writeTrace; split <;> rfl
@[simp] theorem writeTrace_keys (t : BlockTrace) (s : State) : (writeTrace t s).keys = s.keys := by unfold writeTrace; split <;> rfl
@[simp] theorem writeTrace_tks (t : BlockTrace) (s : State) : (writeTrace t s).tks = s.tks := by unfold writeTrace; split <;> rfl
@[simp] theorem writeTrace_params (t : BlockTrace) (s : State) : (writeTrace t s).params = s.params := by unfold writeTrace; split <;> rfl
@[simp] theorem writeTrace_rst (t : BlockTrace) (s : State) : (writeTrace t s).rst = s.rst := by unfold writeTrace; split <;> rfl
@[simp] theorem writeTrace_inFlight (t : BlockTrace) (s : State) : (writeTrace t s).inFlight = s.inFlight := by unfold writeTrace; split <;> rfl
@[simp] theorem writeTrace_rdAddr (t : BlockTrace) (s : State) : (writeTrace t s).rdAddr = s.rdAddr := by unfold writeTrace; split <;> rfl
@[simp] theorem writeTrace_rdData (t : BlockTrace) (s : State) : (writeTrace t s).rdData = s.rdData := by unfold writeTrace; split <;> rfl
@[simp] theorem writeTrace_host (t : BlockTrace) (s : State) : (writeTrace t s).host = s.host := by unfold writeTrace; split <;> rfl
@[simp] theorem writeTrace_nRace (t : BlockTrace) (s : State) : (writeTrace t s).nRace = s.nRace := by unfold writeTrace; split <;> rfl

@[simp] theorem rstFall_params (s : State) : (rstFall s).params = s.params := by unfold rstFall; split <;> rfl
@[simp] theorem rstFall_inFlight (s : State) : (rstFall s).inFlight = s.inFlight := by unfold rstFall; split <;> rfl
@[simp] theorem rstFall_rdAddr (s : State) : (rstFall s).rdAddr = s.rdAddr := by unfold rstFall; split <;> rfl
@[simp] theorem rstFall_rdData (s : State) : (rstFall s).rdData = s.rdData := by unfold rstFall; split <;> rfl
@[simp] theorem rstFall_host (s : State) : (rstFall s).host = s.host := by unfold rstFall; split <;> rfl
@[simp] theorem rstFall_nRace (s : State) : (rstFall s).nRace = s.nRace := by unfold rstFall; split <;> rfl
@[simp] theorem rstFall_rst (s : State) : (rstFall s).rst = false := by unfold rstFall; split <;> simp_all

/-- Where no trace stands, or every block is traced, the trace and TBV are written (spec/42_block_cipher.md R177). -/
theorem writeTrace_written (t : BlockTrace) (s : State) (h : (s.params.traceFirstOnly && s.status.tbv) = false) :
    writeTrace t s = { s with tbk := t, status := statusTraceWritten s.status } := by
  simp [writeTrace, h]

/-- Where a trace stands and only the first block is traced, nothing is written (R177). -/
theorem writeTrace_kept (t : BlockTrace) (s : State) (h : (s.params.traceFirstOnly && s.status.tbv) = true) :
    writeTrace t s = s := by
  simp [writeTrace, h]

@[simp] theorem writeTrace_kv (t : BlockTrace) (s : State) : (writeTrace t s).status.kv = s.status.kv := by
  unfold writeTrace; split <;> rfl

@[simp] theorem writeTrace_estk (t : BlockTrace) (s : State) : (writeTrace t s).status.estk = s.status.estk := by
  unfold writeTrace; split <;> rfl

@[simp] theorem writeTrace_tbv (t : BlockTrace) (s : State) : (writeTrace t s).status.tbv = true := by
  unfold writeTrace; split <;> simp_all

/-- Falling from 1, `rst` leaves every register at its reset value (spec/70_reset_and_hazards.md R280). -/
theorem rstFall_of_high (s : State) (h : s.rst = true) : rstFall s = { clearRegs s with rst := false } := by
  simp [rstFall, h]

/-- Without a fall of `rst` nothing changes. -/
theorem rstFall_of_low (s : State) (h : s.rst = false) : rstFall s = s := by
  simp [rstFall, h]

end Sys2Proof.Machine
end

