-- ==== Sys2Proof/Laws/Exec.lean ====
section
/-!
SUPPORT. What each meaning does, one equation for each command, and, once for all of them, every state a
command can leave.
-/

namespace Sys2Proof.Machine

/-- BC.ENC and BC.DEC with a key loaded (spec/42_block_cipher.md R175, R176). -/
theorem cryptLoaded_of_kv (b rk1 rk2 : Byte) (s : State) (h : s.status.kv = true) :
    cryptLoaded b rk1 rk2 s =
      succeed (zext32 (blk s.params b rk1 rk2).tbk8) (writeTrace (blk s.params b rk1 rk2) s) := by
  simp [cryptLoaded, h]

/-- BC.ENC and BC.DEC with no key loaded. -/
theorem cryptLoaded_of_no_kv (b rk1 rk2 : Byte) (s : State) (h : s.status.kv = false) :
    cryptLoaded b rk1 rk2 s = raiseError .keyNotLoaded s := by
  simp [cryptLoaded, h]

/-- CD.T2B on a code up to 255 (spec/43_codec.md R201). -/
theorem execCdT2b_of_le (c : CharCode) (s : State) (h : c.toNat ≤ 0xFF) :
    execCdT2b c s = .next (succeed (zext32 (c.extractLsb' 0 8)) s) := by
  simp [execCdT2b, h]

/-- CD.T2B on a code above 255. -/
theorem execCdT2b_of_gt (c : CharCode) (s : State) (h : 0xFF < c.toNat) :
    execCdT2b c s = .next (raiseError .charRange s) := by
  have : ¬ c.toNat ≤ 0xFF := by omega
  simp [execCdT2b, this]

/-- CD.B64E on a well-formed group (R205). -/
theorem execCdB64e_of_ok (cnt : BitVec 2) (b0 b1 b2 : Byte) (s : State) (h0 : cnt ≠ 0#2) (h1 : tailNonzero cnt b1 b2 = false) :
    execCdB64e cnt b0 b1 b2 s = .next (succeed (b64eGroup cnt b0 b1 b2) s) := by
  simp [execCdB64e, h0, h1]

/-- CD.B64D on a group that decodes (R207). -/
theorem execCdB64d_of_some (c0 c1 c2 c3 : Byte) (s : State) (g : ByteGroup) (h : b64dGroup c0 c1 c2 c3 = some g) :
    execCdB64d c0 c1 c2 c3 s = .next (succeed (zext32 (g.cnt ++ packThree g.b0 g.b1 g.b2)) s) := by
  simp [execCdB64d, h]

/-- CD.B64D on a malformed group (R207). -/
theorem execCdB64d_of_none (c0 c1 c2 c3 : Byte) (s : State) (h : b64dGroup c0 c1 c2 c3 = none) :
    execCdB64d c0 c1 c2 c3 s = .next (raiseError .base64Decode s) := by
  simp [execCdB64d, h]

/-- Every state a command can leave. -/
inductive Effect (i : Instr) (s : State) : State → Prop where
  /-- RES and ERR, and nothing else. -/
  | result (r : Word) : Effect i s (succeed r s)
  /-- An error a command raises. -/
  | error (e : ErrCode) (legal : e ≠ .blockSize) : Effect i s (raiseError e s)
  /-- CTL.CLR. -/
  | clear (isClr : i = .ctlClr) : Effect i s (clearRegs s)
  /-- KS.LOAD. -/
  | load (key : Key) (isLoad : i = .ksLoad key) :
    Effect i s (succeed (zext32 (subkeys key)) (writeKey (subkeys key) (keyTrace key) s))
  /-- BC.ENC with a key loaded. -/
  | enc (b : Byte) (isEnc : i = .bcEnc b) (kv : s.status.kv = true) :
    Effect i s (succeed (zext32 (blk s.params b (keyOne s) (keyTwo s)).tbk8) (writeTrace (blk s.params b (keyOne s) (keyTwo s)) s))
  /-- BC.DEC with a key loaded. -/
  | dec (b : Byte) (isDec : i = .bcDec b) (kv : s.status.kv = true) :
    Effect i s (succeed (zext32 (blk s.params b (keyTwo s) (keyOne s)).tbk8) (writeTrace (blk s.params b (keyTwo s) (keyOne s)) s))

/-- Every command answers a next state, and one of these. -/
theorem exec_effect (i : Instr) (s : State) : ∃ t, exec i s = .next t ∧ Effect i s t := by
  cases i with
  | ctlClr => exact ⟨_, rfl, .clear rfl⟩
  | ksLoad key => exact ⟨_, rfl, .load key rfl⟩
  | bcEnc b =>
    cases h : s.status.kv with
    | true => exact ⟨_, congrArg Host.Outcome.next (cryptLoaded_of_kv _ _ _ _ h), .enc b rfl h⟩
    | false => exact ⟨_, congrArg Host.Outcome.next (cryptLoaded_of_no_kv _ _ _ _ h), .error .keyNotLoaded (by decide)⟩
  | bcDec b =>
    cases h : s.status.kv with
    | true => exact ⟨_, congrArg Host.Outcome.next (cryptLoaded_of_kv _ _ _ _ h), .dec b rfl h⟩
    | false => exact ⟨_, congrArg Host.Outcome.next (cryptLoaded_of_no_kv _ _ _ _ h), .error .keyNotLoaded (by decide)⟩
  | cdT2b c =>
    by_cases h : c.toNat ≤ 0xFF
    · exact ⟨_, execCdT2b_of_le c s h, .result _⟩
    · exact ⟨_, execCdT2b_of_gt c s (by omega), .error _ (by decide)⟩
  | cdB64e cnt b0 b1 b2 =>
    by_cases h0 : cnt = 0#2
    · exact ⟨_, by simp [exec, execCdB64e, h0], .error .badCount (by decide)⟩
    · cases h1 : tailNonzero cnt b1 b2 with
      | true => exact ⟨_, by simp [exec, execCdB64e, h0, h1], .error .reservedNonzero (by decide)⟩
      | false => exact ⟨_, execCdB64e_of_ok _ _ _ _ _ h0 h1, .result _⟩
  | cdB64d c0 c1 c2 c3 =>
    cases h : b64dGroup c0 c1 c2 c3 with
    | none => exact ⟨_, execCdB64d_of_none _ _ _ _ _ h, .error _ (by decide)⟩
    | some g => exact ⟨_, execCdB64d_of_some _ _ _ _ _ g h, .result _⟩
  | _ => exact ⟨_, rfl, .result _⟩

/-- The state a command leaves is one of these. -/
theorem effect_of_exec {i : Instr} {s t : State} (h : exec i s = .next t) : Effect i s t := by
  obtain ⟨u, hu, he⟩ := exec_effect i s
  rw [hu] at h
  cases h
  exact he

/-- No command touches the parameters, the ports or the host's coming actions. -/
theorem Effect.samePorts {i : Instr} {s t : State} (h : Effect i s t) : SamePorts s t := by
  cases h <;> simp [SamePorts]

end Sys2Proof.Machine
end

