-- ==== Sys2Proof/Laws/PerInstr.lean ====
section
/-!
SUPPORT. For each command: its OP has a row, its ARG has no reserved bit set, and the row builds the
command back from the ARG (spec/30_encoding.md R82, R84, R85).
-/

namespace Sys2Proof.Laws

/-- The command's own row reads its encoding back. -/
def Encoding.Statement (i : Instr) : Prop :=
  ∃ r, opRow (opByte i) = some r ∧ argWord i &&& rsv r.format = 0#32 ∧ r.build (argWord i) = i

/-- A zero-extended field has no bit at or above its width, which is what every reserved mask covers. -/
theorem setWidth_and_mask {n : Nat} (v : BitVec n) (m : Word) (h : ∀ j, j < n → m.getLsbD j = false) :
    v.setWidth 32 &&& m = 0#32 := by
  apply BitVec.eq_of_getLsbD_eq
  intro i hi
  by_cases hn : i < n
  · simp [h i hn]
  · simp [BitVec.getLsbD_of_ge v i (by omega)]

/-- The low field of a zero-extended value. -/
theorem field_low {n : Nat} (v : BitVec n) (h : n ≤ 32) : field (v.setWidth 32) 0 n = v :=
  Machine.extractLsb'_zext32 v h

/-- The low field of two fields put together. -/
theorem field_append_low {n m : Nat} (x : BitVec n) (y : BitVec m) (h : n + m ≤ 32) :
    field ((x ++ y).setWidth 32) 0 m = y := by
  apply BitVec.eq_of_getLsbD_eq
  intro i hi
  have h32 : i < 32 := by omega
  simp [field, BitVec.getLsbD_append, hi, h32]

/-- The high field of two fields put together. -/
theorem field_append_high {n m : Nat} (x : BitVec n) (y : BitVec m) (h : n + m ≤ 32) :
    field ((x ++ y).setWidth 32) m n = x := by
  apply BitVec.eq_of_getLsbD_eq
  intro i hi
  have h32 : m + i < 32 := by omega
  have hm : ¬ m + i < m := by omega
  simp [field, BitVec.getLsbD_append, hi, h32]

/-- A field that lies inside the low part of two fields put together. -/
theorem field_append_inner {n m lo k : Nat} (x : BitVec n) (y : BitVec m) (h : lo + k ≤ m) (hm : m ≤ 32) :
    field ((x ++ y).setWidth 32) lo k = field (y.setWidth 32) lo k := by
  apply BitVec.eq_of_getLsbD_eq
  intro i hi
  have h1 : lo + i < m := by omega
  have h32 : lo + i < 32 := by omega
  simp [field, BitVec.getLsbD_append, hi, h1, h32]

/-- A field above the low part of two fields put together. -/
theorem field_append_outer {n m lo k : Nat} (x : BitVec n) (y : BitVec m) (h : m ≤ lo) (hn : lo + k ≤ 32) :
    field ((x ++ y).setWidth 32) lo k = field (x.setWidth 32) (lo - m) k := by
  apply BitVec.eq_of_getLsbD_eq
  intro i hi
  have h1 : ¬ lo + i < m := by omega
  have h32 : lo + i < 32 := by omega
  have h33 : lo - m + i < 32 := by omega
  have e : lo + i - m = lo - m + i := by omega
  simp [field, BitVec.getLsbD_append, hi, h1, h32, h33, e]

theorem Encoding.ctlNop : Encoding.Statement .ctlNop := ⟨_, rfl, rfl, rfl⟩

theorem Encoding.ctlClr : Encoding.Statement .ctlClr := ⟨_, rfl, rfl, rfl⟩

theorem Encoding.ksP10 (v : Key) : Encoding.Statement (.ksP10 v) :=
  ⟨_, rfl, setWidth_and_mask v _ (by decide), congrArg Instr.ksP10 (field_low v (by decide))⟩

theorem Encoding.ksRot1 (v : Key) : Encoding.Statement (.ksRot1 v) :=
  ⟨_, rfl, setWidth_and_mask v _ (by decide), congrArg Instr.ksRot1 (field_low v (by decide))⟩

theorem Encoding.ksRot2 (v : Key) : Encoding.Statement (.ksRot2 v) :=
  ⟨_, rfl, setWidth_and_mask v _ (by decide), congrArg Instr.ksRot2 (field_low v (by decide))⟩

theorem Encoding.ksP8 (v : Key) : Encoding.Statement (.ksP8 v) :=
  ⟨_, rfl, setWidth_and_mask v _ (by decide), congrArg Instr.ksP8 (field_low v (by decide))⟩

theorem Encoding.ksLoad (key : Key) : Encoding.Statement (.ksLoad key) :=
  ⟨_, rfl, setWidth_and_mask key _ (by decide), congrArg Instr.ksLoad (field_low key (by decide))⟩

theorem Encoding.frEp (n : Half) : Encoding.Statement (.frEp n) :=
  ⟨_, rfl, setWidth_and_mask n _ (by decide), congrArg Instr.frEp (field_low n (by decide))⟩

theorem Encoding.frXor (a b : Byte) : Encoding.Statement (.frXor a b) :=
  ⟨_, rfl, setWidth_and_mask (a ++ b) _ (by decide),
    congrArg₂ Instr.frXor (field_append_high a b (by decide)) (field_append_low a b (by decide))⟩

theorem Encoding.frSbox0 (n : Half) : Encoding.Statement (.frSbox0 n) :=
  ⟨_, rfl, setWidth_and_mask n _ (by decide), congrArg Instr.frSbox0 (field_low n (by decide))⟩

theorem Encoding.frSbox1 (n : Half) : Encoding.Statement (.frSbox1 n) :=
  ⟨_, rfl, setWidth_and_mask n _ (by decide), congrArg Instr.frSbox1 (field_low n (by decide))⟩

theorem Encoding.frP4 (n : Half) : Encoding.Statement (.frP4 n) :=
  ⟨_, rfl, setWidth_and_mask n _ (by decide), congrArg Instr.frP4 (field_low n (by decide))⟩

theorem Encoding.frF (sk : Byte) (r : Half) : Encoding.Statement (.frF sk r) :=
  ⟨_, rfl, setWidth_and_mask (sk ++ r) _ (by decide),
    congrArg₂ Instr.frF (field_append_high sk r (by decide)) (field_append_low sk r (by decide))⟩

theorem Encoding.frFk (sk b : Byte) : Encoding.Statement (.frFk sk b) :=
  ⟨_, rfl, setWidth_and_mask (sk ++ b) _ (by decide),
    congrArg₂ Instr.frFk (field_append_high sk b (by decide)) (field_append_low sk b (by decide))⟩

theorem Encoding.bcIp (b : Byte) : Encoding.Statement (.bcIp b) :=
  ⟨_, rfl, setWidth_and_mask b _ (by decide), congrArg Instr.bcIp (field_low b (by decide))⟩

theorem Encoding.bcIpinv (b : Byte) : Encoding.Statement (.bcIpinv b) :=
  ⟨_, rfl, setWidth_and_mask b _ (by decide), congrArg Instr.bcIpinv (field_low b (by decide))⟩

theorem Encoding.bcSw (b : Byte) : Encoding.Statement (.bcSw b) :=
  ⟨_, rfl, setWidth_and_mask b _ (by decide), congrArg Instr.bcSw (field_low b (by decide))⟩

theorem Encoding.bcEnc (b : Byte) : Encoding.Statement (.bcEnc b) :=
  ⟨_, rfl, setWidth_and_mask b _ (by decide), congrArg Instr.bcEnc (field_low b (by decide))⟩

theorem Encoding.bcDec (b : Byte) : Encoding.Statement (.bcDec b) :=
  ⟨_, rfl, setWidth_and_mask b _ (by decide), congrArg Instr.bcDec (field_low b (by decide))⟩

theorem Encoding.bcEnck (key : Key) (b : Byte) : Encoding.Statement (.bcEnck key b) :=
  ⟨_, rfl, setWidth_and_mask (key ++ b) _ (by decide),
    congrArg₂ Instr.bcEnck (field_append_high key b (by decide)) (field_append_low key b (by decide))⟩

theorem Encoding.bcDeck (key : Key) (b : Byte) : Encoding.Statement (.bcDeck key b) :=
  ⟨_, rfl, setWidth_and_mask (key ++ b) _ (by decide),
    congrArg₂ Instr.bcDeck (field_append_high key b (by decide)) (field_append_low key b (by decide))⟩

theorem Encoding.cdT2b (c : CharCode) : Encoding.Statement (.cdT2b c) :=
  ⟨_, rfl, setWidth_and_mask c _ (by decide), congrArg Instr.cdT2b (field_low c (by decide))⟩

theorem Encoding.cdB2t (b : Byte) : Encoding.Statement (.cdB2t b) :=
  ⟨_, rfl, setWidth_and_mask b _ (by decide), congrArg Instr.cdB2t (field_low b (by decide))⟩

theorem Encoding.cdB64e (cnt : BitVec 2) (b0 b1 b2 : Byte) : Encoding.Statement (.cdB64e cnt b0 b1 b2) := by
  refine ⟨_, rfl, setWidth_and_mask (cnt ++ b0 ++ b1 ++ b2) _ (by decide), ?_⟩
  have h0 : field ((cnt ++ b0 ++ b1 ++ b2).setWidth 32) 24 2 = cnt := by
    rw [field_append_outer (cnt ++ b0 ++ b1) b2 (by decide) (by decide),
      field_append_outer (cnt ++ b0) b1 (by decide) (by decide), field_append_high cnt b0 (by decide)]
  have h1 : field ((cnt ++ b0 ++ b1 ++ b2).setWidth 32) 16 8 = b0 := by
    rw [field_append_outer (cnt ++ b0 ++ b1) b2 (by decide) (by decide),
      field_append_outer (cnt ++ b0) b1 (by decide) (by decide), field_append_low cnt b0 (by decide)]
  have h2 : field ((cnt ++ b0 ++ b1 ++ b2).setWidth 32) 8 8 = b1 := by
    rw [field_append_outer (cnt ++ b0 ++ b1) b2 (by decide) (by decide), field_append_low (cnt ++ b0) b1 (by decide)]
  have h3 : field ((cnt ++ b0 ++ b1 ++ b2).setWidth 32) 0 8 = b2 := field_append_low (cnt ++ b0 ++ b1) b2 (by decide)
  change Instr.cdB64e _ _ _ _ = _
  rw [show argWord (.cdB64e cnt b0 b1 b2) = (cnt ++ b0 ++ b1 ++ b2).setWidth 32 from rfl, h0, h1, h2, h3]

theorem Encoding.cdB64d (c0 c1 c2 c3 : Byte) : Encoding.Statement (.cdB64d c0 c1 c2 c3) := by
  refine ⟨_, rfl, BitVec.and_zero, ?_⟩
  have e : argWord (.cdB64d c0 c1 c2 c3) = (c0 ++ c1 ++ c2 ++ c3).setWidth 32 := (BitVec.setWidth_eq _).symm
  have h0 : field ((c0 ++ c1 ++ c2 ++ c3).setWidth 32) 24 8 = c0 := by
    rw [field_append_outer (c0 ++ c1 ++ c2) c3 (by decide) (by decide),
      field_append_outer (c0 ++ c1) c2 (by decide) (by decide), field_append_high c0 c1 (by decide)]
  have h1 : field ((c0 ++ c1 ++ c2 ++ c3).setWidth 32) 16 8 = c1 := by
    rw [field_append_outer (c0 ++ c1 ++ c2) c3 (by decide) (by decide),
      field_append_outer (c0 ++ c1) c2 (by decide) (by decide), field_append_low c0 c1 (by decide)]
  have h2 : field ((c0 ++ c1 ++ c2 ++ c3).setWidth 32) 8 8 = c2 := by
    rw [field_append_outer (c0 ++ c1 ++ c2) c3 (by decide) (by decide), field_append_low (c0 ++ c1) c2 (by decide)]
  have h3 : field ((c0 ++ c1 ++ c2 ++ c3).setWidth 32) 0 8 = c3 := field_append_low (c0 ++ c1 ++ c2) c3 (by decide)
  change Instr.cdB64d _ _ _ _ = _
  rw [e, h0, h1, h2, h3]

theorem Encoding.cdHex (b : Byte) : Encoding.Statement (.cdHex b) :=
  ⟨_, rfl, setWidth_and_mask b _ (by decide), congrArg Instr.cdHex (field_low b (by decide))⟩

end Sys2Proof.Laws
end

