-- ==== Sys2Proof/Laws/Ports.lean ====
section
/-! SUPPORT. Every way a step can go (spec/20_memory.md R60, spec/70_reset_and_hazards.md R280, R285). -/

namespace Sys2Proof.Machine

/-- A word that decodes runs as its command. -/
theorem runWord_of_ok {w : CmdWord} {i : Instr} (h : decode w = .ok i) (s : State) : runWord w s = exec i s := by
  simp [runWord, h]

/-- A word that does not decode ends in its error (spec/60_exceptions.md R252). -/
theorem runWord_of_error {w : CmdWord} {e : ErrCode} (h : decode w = .error e) (s : State) :
    runWord w s = .next (raiseError e s) := by
  simp [runWord, h]

/-- A command word leaves an effect of its command, or its decoding error. -/
theorem runWord_effect (w : CmdWord) (s : State) :
    ∃ t, runWord w s = .next t ∧
      ((∃ i, decode w = .ok i ∧ Effect i s t) ∨ (∃ e, decode w = .error e ∧ t = raiseError e s)) := by
  cases h : decode w with
  | ok i =>
    obtain ⟨t, ht, he⟩ := exec_effect i s
    exact ⟨t, (runWord_of_ok h s).trans ht, .inl ⟨i, rfl, he⟩⟩
  | error e => exact ⟨_, runWord_of_error h s, .inr ⟨e, rfl, rfl⟩⟩

/-- No command word touches the parameters, the ports or the host's coming actions. -/
theorem samePorts_of_runWord {w : CmdWord} {s t : State} (h : runWord w s = .next t) : SamePorts s t := by
  obtain ⟨u, hu, hc⟩ := runWord_effect w s
  rw [hu] at h
  cases h
  obtain ⟨i, -, he⟩ | ⟨e, -, rfl⟩ := hc
  · exact he.samePorts
  · simp [SamePorts]

/-- The state after a word is the one it leaves. -/
theorem afterWord_of_next {w : CmdWord} {s t : State} (h : runWord w s = .next t) : afterWord w s = t := by
  simp [afterWord, afterOutcome, h]

/-- The state after a command is the one it leaves. -/
theorem afterCommand_of_next {i : Instr} {s t : State} (h : exec i s = .next t) : afterCommand i s = t := by
  simp [afterCommand, afterOutcome, h]

/-- With a word in flight and a host that waits, the next step completes it. -/
theorem step_of_inFlight {s : State} {w : CmdWord} (hw : s.inFlight = some w) (hh : hostWaits s = true) :
    step s = runWord w { s with inFlight := none } := by
  have hc : complete s = runWord w { s with inFlight := none } := by simp [complete, hw]
  unfold hostWaits at hh
  unfold step nextEvent
  split at hh
  · simp [*]
  · simp [*, hostAct, cmdReady, busy]
  · simp [*, hostAct, busy]
  · cases hh

/-- A power-up leaves every register at its reset value, `rst` low and nothing in flight. -/
theorem powerUp_eq (s : State) : powerUp s = { clearRegs s with rst := false, inFlight := none } := by
  simp [powerUp, rstFall, rstRise, clearRegs]

/-- A host action that need not wait is the next step. -/
theorem step_of_hostAct {s t : State} {a : HostAction} {rest : List HostAction} (hs : s.host = a :: rest)
    (ht : hostAct a { s with host := rest } = some t) : step s = .next t := by
  simp [step, nextEvent, hs, ht]

/-- Every effect a host action can have. -/
inductive HostEffect (s : State) : HostAction → State → Prop where
  /-- A transfer. -/
  | accept (w : CmdWord) (low : s.rst = false) (idle : s.inFlight = none) :
    HostEffect s (.issue w) { s with inFlight := some w }
  /-- A word withdrawn before its transfer. -/
  | withdraw (w : CmdWord) : HostEffect s (.withdraw w) s
  /-- A read that waited for `busy` to fall. -/
  | read (a : RAddr) (idle : s.inFlight = none) : HostEffect s (.read a) (sampleRead a s)
  /-- A read that did not wait. -/
  | readNow (a : RAddr) : HostEffect s (.readNow a) (sampleRead a s)
  /-- `rst` rises. -/
  | rise : HostEffect s .raiseRst (rstRise s)
  /-- `rst` falls. -/
  | fall : HostEffect s .dropRst (rstFall s)
  /-- Power is lost and comes back. -/
  | power : HostEffect s .powerCycle (powerUp s)

/-- What a host action that need not wait does is one of these. -/
theorem hostEffect_of_some {a : HostAction} {s t : State} (h : hostAct a s = some t) : HostEffect s a t := by
  cases a with
  | issue w =>
    by_cases hr : cmdReady s = true
    · simp only [hostAct, hr, if_true, Option.some.injEq] at h
      subst h
      simp [cmdReady, busy] at hr
      exact .accept w hr.1 hr.2
    · simp [hostAct, hr] at h
  | read x =>
    by_cases hb : busy s = true
    · simp [hostAct, hb] at h
    · simp only [hostAct, hb, if_false, Option.some.injEq, Bool.false_eq_true] at h
      subst h
      exact .read x (by simpa [busy] using hb)
  | withdraw w => cases h; exact .withdraw w
  | readNow x => cases h; exact .readNow x
  | raiseRst => cases h; exact .rise
  | dropRst => cases h; exact .fall
  | powerCycle => cases h; exact .power

/-- A host action that can do nothing yet leaves the host waiting. -/
theorem hostWaits_of_none {s t : State} {a : HostAction} {rest : List HostAction} (hs : s.host = a :: rest)
    (ha : hostAct a t = none) : hostWaits s = true := by
  cases a <;> simp_all [hostWaits, hostAct]

/-- A step that answers a next state is a host action, or the completion of the word in flight with the host
waiting. -/
theorem step_cases {s t : State} (h : step s = .next t) :
    (∃ a rest, s.host = a :: rest ∧ HostEffect { s with host := rest } a t) ∨
      (hostWaits s = true ∧ ∃ w, s.inFlight = some w ∧ runWord w { s with inFlight := none } = .next t) := by
  have hc : complete s = .next t → ∃ w, s.inFlight = some w ∧ runWord w { s with inFlight := none } = .next t := by
    intro hc
    unfold complete at hc
    split at hc
    · exact ⟨_, ‹_›, hc⟩
    · cases hc
  unfold step nextEvent at h
  split at h
  · rename_i hs
    exact .inr ⟨by simp [hostWaits, hs], hc h⟩
  · rename_i a rest hs
    split at h
    · rename_i u hu
      cases h
      exact .inl ⟨a, rest, hs, hostEffect_of_some hu⟩
    · exact .inr ⟨hostWaits_of_none hs ‹_›, hc h⟩

end Sys2Proof.Machine
end

