-- ==== Sys2Proof/Tests/Slice0.lean ====
section
/-!
SUPPORT. Tests, each expected value taken from spec/95_test_vectors.md or worked out by hand from the rule
named, and, for every statement with hypotheses, a witness that they can be met together.
-/

namespace Sys2Proof.Tests

open Sys2Proof.Machine Sys2Proof.Claims

/-! Decoding: one word for each command, written out bit by bit from spec/30_encoding.md R80, R82, R85. -/

theorem test_decode_ctl_nop : decode 0b00000000_00000000000000000000000000000000#40 = .ok .ctlNop := by rfl
theorem test_decode_ctl_clr : decode 0b00000001_00000000000000000000000000000000#40 = .ok .ctlClr := by rfl
theorem test_decode_ks_p10 : decode 0b00010000_0000000000000000000000_1010000010#40 = .ok (.ksP10 0x282#10) := by rfl
theorem test_decode_ks_rot1 : decode 0b00010001_0000000000000000000000_1000001100#40 = .ok (.ksRot1 0x20C#10) := by rfl
theorem test_decode_ks_rot2 : decode 0b00010010_0000000000000000000000_0000111000#40 = .ok (.ksRot2 0x038#10) := by rfl
theorem test_decode_ks_p8 : decode 0b00010011_0000000000000000000000_0010000011#40 = .ok (.ksP8 0x083#10) := by rfl
theorem test_decode_ks_load : decode 0b00010100_0000000000000000000000_1010000010#40 = .ok (.ksLoad 0x282#10) := by rfl
theorem test_decode_fr_ep : decode 0b00100000_0000000000000000000000000000_1100#40 = .ok (.frEp 0xC#4) := by rfl
theorem test_decode_fr_xor : decode 0b00100001_0000000000000000_01101001_10100100#40 = .ok (.frXor 0x69#8 0xA4#8) := by rfl
theorem test_decode_fr_sbox0 : decode 0b00100010_0000000000000000000000000000_1100#40 = .ok (.frSbox0 0xC#4) := by rfl
theorem test_decode_fr_sbox1 : decode 0b00100011_0000000000000000000000000000_1101#40 = .ok (.frSbox1 0xD#4) := by rfl
theorem test_decode_fr_p4 : decode 0b00100100_0000000000000000000000000000_0100#40 = .ok (.frP4 0x4#4) := by rfl
theorem test_decode_fr_f : decode 0b00100101_00000000000000000000_10100100_1100#40 = .ok (.frF 0xA4#8 0xC#4) := by rfl
theorem test_decode_fr_fk : decode 0b00100110_0000000000000000_10100100_10000100#40 = .ok (.frFk 0xA4#8 0x84#8) := by rfl
theorem test_decode_bc_ip : decode 0b00110000_000000000000000000000000_01000001#40 = .ok (.bcIp 0x41#8) := by rfl
theorem test_decode_bc_ipinv : decode 0b00110001_000000000000000000000000_10000100#40 = .ok (.bcIpinv 0x84#8) := by rfl
theorem test_decode_bc_sw : decode 0b00110010_000000000000000000000000_11000100#40 = .ok (.bcSw 0xC4#8) := by rfl
theorem test_decode_bc_enc : decode 0b00110011_000000000000000000000000_01000001#40 = .ok (.bcEnc 0x41#8) := by rfl
theorem test_decode_bc_dec : decode 0b00110100_000000000000000000000000_00010101#40 = .ok (.bcDec 0x15#8) := by rfl
theorem test_decode_bc_enck : decode 0b00110101_00000000000000_1010000010_10010111#40 = .ok (.bcEnck 0x282#10 0x97#8) := by rfl
theorem test_decode_bc_deck : decode 0b00110110_00000000000000_1010000010_00111000#40 = .ok (.bcDeck 0x282#10 0x38#8) := by rfl
theorem test_decode_cd_t2b : decode 0b01000000_0000000000000000_0000000001000001#40 = .ok (.cdT2b 0x41#16) := by rfl
theorem test_decode_cd_b2t : decode 0b01000001_000000000000000000000000_11101001#40 = .ok (.cdB2t 0xE9#8) := by rfl
theorem test_decode_cd_b64e : decode 0b01000010_000000_10_01001000_01101001_00000000#40 = .ok (.cdB64e 2#2 0x48#8 0x69#8 0x00#8) := by rfl
theorem test_decode_cd_b64d : decode 0b01000011_01000110_01010001_00111101_00111101#40 = .ok (.cdB64d 0x46#8 0x51#8 0x3D#8 0x3D#8) := by rfl
theorem test_decode_cd_hex : decode 0b01000100_000000000000000000000000_00010101#40 = .ok (.cdHex 0x15#8) := by rfl

/-- spec/95_test_vectors.md 2.6. -/
theorem test_decode_refuses_by_name :
    decode 0x15_FFFFFFFF#40 = .error .illegalOp ∧ decode 0x33_00000100#40 = .error .reservedNonzero ∧
      decode 0x42_04000000#40 = .error .reservedNonzero := by decide

/-- The numbering of spec/opcode_table.json: OP in bits 39 to 32 (log 14). -/
theorem test_table_word :
    decodeTableWord 40 0x1400000282 = some (.ksLoad 0x282#10) ∧ decodeTableWord 40 0x0200000000 = none ∧
      decodeTableWord 48 0x1400000282 = none := by decide

/-! Well-formedness: an ill-formed command for each check. -/

theorem test_ill_formed_count : groupCountOk (.cdB64e 0#2 0#8 0#8 0#8) = false ∧ WellFormed (.cdB64e 0#2 0#8 0#8 0#8) = false := by
  decide

theorem test_ill_formed_tail : groupTailOk (.cdB64e 1#2 0x15#8 0#8 1#8) = false ∧
    groupTailOk (.cdB64e 2#2 0x48#8 0x69#8 1#8) = false ∧ WellFormed (.cdB64e 2#2 0x48#8 0x69#8 1#8) = false := by
  decide

theorem test_well_formed : WellFormed (.cdB64e 2#2 0x48#8 0x69#8 0#8) = true ∧ WellFormed (.ksLoad 0x3FF#10) = true := by
  decide

/-! Small states. -/

/-- After reset. -/
def fresh : State := State.reset

/-- After KS.LOAD of the key 1010000010. -/
def loaded : State := afterCommand (.ksLoad 0x282#10) fresh

/-- After a failed BC.ENC: ERR 3, ESTK 1. -/
def failed : State := afterCommand (.bcEnc 0x41#8) fresh

/-- After KS.LOAD and BC.ENC of `A`: a trace stands. -/
def traced : State := afterCommand (.bcEnc 0x41#8) loaded

/-- The word in flight, and the host's actions. -/
def inFlightState (w : CmdWord) (host : List HostAction) (s : State) : State := { s with inFlight := some w, host := host }

/-- The host's actions, with nothing in flight. -/
def hostState (host : List HostAction) (s : State) : State := { s with host := host }

/-- `rst` at 1. -/
def held (s : State) : State := { s with rst := true }

/-- TRACE_FIRST_ONLY false. -/
def everyBlock (s : State) : State := { s with params := { s.params with traceFirstOnly := false } }

/-- RES after a command. -/
def resAfter (i : Instr) (s : State) : Word := (afterCommand i s).res

/-- ERR after a word. -/
def errAfter (w : CmdWord) (s : State) : BitVec 4 := (afterWord w s).status.err

/-- The state after a step. -/
def afterStep (s : State) : State := afterOutcome (step s) s

/-! One command on a small state; the values are those of spec/95_test_vectors.md. -/

theorem test_ctl_nop_keeps_estk : (resAfter .ctlNop failed = 0#32 ∧ (afterCommand .ctlNop failed).status.err = 0#4) ∧
    (afterCommand .ctlNop failed).status.estk = true := by decide

theorem test_ctl_clr_zeroes : (afterCommand .ctlClr traced).status = Status.reset ∧ (afterCommand .ctlClr traced).keys = 0#16 ∧
    (afterCommand .ctlClr traced).tbk = BlockTrace.reset := by decide

theorem test_ctl_clr_reserved : readReg (afterWord 0x01_80000000#40 loaded) 0x01#8 = 0x00010102#32 ∧
    (afterWord 0x01_80000000#40 loaded).keys = 0xA443#16 := by decide

theorem test_ks_p10 : resAfter (.ksP10 0x282#10) fresh = 0x20C#32 := by decide

theorem test_ks_rot1 : resAfter (.ksRot1 0x20C#10) fresh = 0x038#32 := by decide

theorem test_ks_rot2 : resAfter (.ksRot2 0x038#10) fresh = 0x083#32 := by decide

theorem test_ks_p8 : resAfter (.ksP8 0x083#10) fresh = 0x43#32 := by decide

theorem test_ks_load : resAfter (.ksLoad 0x282#10) fresh = 0xA443#32 := by decide

theorem test_fr_ep : resAfter (.frEp 0xC#4) fresh = 0x69#32 := by decide

theorem test_fr_xor : resAfter (.frXor 0x69#8 0xA4#8) fresh = 0xCD#32 := by decide

theorem test_fr_sbox0 : resAfter (.frSbox0 0xC#4) fresh = 0x1#32 := by decide

theorem test_fr_sbox1 : resAfter (.frSbox1 0xD#4) fresh = 0x0#32 := by decide

theorem test_fr_p4 : resAfter (.frP4 0x4#4) fresh = 0x8#32 := by decide

theorem test_fr_f : resAfter (.frF 0xA4#8 0xC#4) fresh = 0x8#32 := by decide

theorem test_fr_fk : resAfter (.frFk 0x43#8 0x4C#8) fresh = 0x4C#32 := by decide

theorem test_bc_ip : resAfter (.bcIp 0x41#8) fresh = 0x84#32 := by decide

theorem test_bc_ipinv : resAfter (.bcIpinv 0x84#8) fresh = 0x41#32 := by decide

theorem test_bc_sw : resAfter (.bcSw 0xC4#8) fresh = 0x4C#32 := by decide

set_option maxRecDepth 8000 in
theorem test_bc_enc : resAfter (.bcEnc 0x41#8) loaded = 0x15#32 := by decide

set_option maxRecDepth 8000 in
theorem test_bc_dec : resAfter (.bcDec 0x15#8) loaded = 0x41#32 := by decide

set_option maxRecDepth 8000 in
theorem test_bc_enck : resAfter (.bcEnck 0x282#10 0x97#8) fresh = 0x38#32 := by decide

set_option maxRecDepth 8000 in
theorem test_bc_deck : resAfter (.bcDeck 0x1FD#10 0xD9#8) fresh = 0x5A#32 := by decide

theorem test_cd_t2b : resAfter (.cdT2b 0xFF#16) fresh = 0xFF#32 := by decide

theorem test_cd_b2t : resAfter (.cdB2t 0xE9#8) fresh = 0xE9#32 := by decide

theorem test_cd_b64e : resAfter (.cdB64e 3#2 0xFB#8 0xEF#8 0xBE#8) fresh = 0x2B2B2B2B#32 := by decide

theorem test_cd_b64d : resAfter (.cdB64d 0x51#8 0x52#8 0x3D#8 0x3D#8) fresh = 0x01410000#32 := by decide

theorem test_cd_hex : resAfter (.cdHex 0x9A#8) fresh = 0x3941#32 := by decide

/-- spec/40_key_schedule.md R116, the example's trace. -/
theorem test_ks_load_trace : loaded.tks = ⟨0x282#10, 0x20C#10, 0x038#10, 0xA4#8, 0x083#10, 0x43#8⟩ := by decide

set_option maxRecDepth 8000 in
/-- spec/42_block_cipher.md R175, the example's trace. -/
theorem test_bc_enc_trace :
    traced.tbk = ⟨0x41#8, 0x84#8, 0x4#4, 0xC#4, 0x4C#8, 0x0#4, 0x4#4, 0x4C#8, 0x15#8⟩ ∧ readReg traced 0x01#8 = 0x300#32 := by
  decide

set_option maxRecDepth 8000 in
/-- spec/42_block_cipher.md R176, the example's trace. -/
theorem test_bc_dec_trace : (afterCommand (.bcDec 0x15#8) loaded).tbk =
    ⟨0x15#8, 0x4C#8, 0x0#4, 0x4#4, 0xC4#8, 0x4#4, 0x8#4, 0x84#8, 0x41#8⟩ := by decide

set_option maxRecDepth 8000 in
/-- spec/95_test_vectors.md 2.3.4: the second block's trace, by the policy. -/
theorem test_trace_policy : (afterCommand (.bcEnc 0x97#8) traced).tbk = traced.tbk ∧
    (afterCommand (.bcEnc 0x97#8) (everyBlock traced)).tbk.tbk0 = 0x97#8 := by decide

/-- spec/95_test_vectors.md, program P7: the codes in their priority. -/
theorem test_error_priority :
    errAfter 0x33_00000041#40 fresh = 3#4 ∧ errAfter 0x15_00000000#40 fresh = 1#4 ∧ errAfter 0x14_00000400#40 fresh = 2#4 ∧
    errAfter 0x40_00000100#40 fresh = 4#4 ∧ errAfter 0x43_413D3D3D#40 fresh = 5#4 ∧ errAfter 0x42_00150000#40 fresh = 6#4 ∧
    errAfter 0x42_04000000#40 fresh = 2#4 ∧ errAfter 0x42_01150100#40 fresh = 2#4 ∧ errAfter 0x33_00000100#40 fresh = 2#4 := by
  decide

/-- A placed command is the next step after reset. -/
theorem test_placed_word_runs : (afterStep (State.reset.withFetchWord 40 0x1400000282)).keys = 0xA443#16 := by decide

/-- An issued word is accepted, then completes. -/
theorem test_issue_takes_two_steps : (afterStep (hostState [.issue 0x00_00000001#40] fresh)).inFlight = some 0x00_00000001#40 ∧
    readReg (afterStep (afterStep (hostState [.issue 0x00_00000001#40] fresh))) 0x01#8 = 0x00010002#32 := by decide

/-- A withdrawn word is never executed (spec/70_reset_and_hazards.md R285). -/
theorem test_withdrawn_word : afterStep (hostState [.withdraw 0x14_00000282#40] fresh) = fresh := by decide

set_option maxRecDepth 20000 in
/-- spec/95_test_vectors.md 2.4.5: the text `Hi`. -/
theorem test_encrypt_hi : (encryptText [0x48#16, 0x69#16] 0x282#10 fresh).1 = .ok [0x34#16, 0x4D#16, 0x63#16, 0x3D#16] := by
  rfl

/-- spec/95_test_vectors.md 2.4.5: the three host-level errors `FQ=`, `FQ==4Mcp`, and a length of 5. -/
theorem test_base64_host_errors :
    (base64ToBinary [0x46#16, 0x51#16, 0x3D#16] fresh).1 = .error .base64Decode ∧
    (base64ToBinary [0x46#16, 0x51#16, 0x3D#16, 0x3D#16, 0x34#16, 0x4D#16, 0x63#16, 0x70#16] fresh).1 = .error .base64Decode ∧
    (base64ToBinary [0x46#16, 0x51#16, 0x3D#16, 0x3D#16, 0x20#16] fresh).1 = .error .base64Decode := ⟨rfl, rfl, rfl⟩

/-- spec/95_test_vectors.md 2.4.4: `E0 C7 29`. -/
theorem test_binary_to_hex : (binaryToHex [0xE0#8, 0xC7#8, 0x29#8] fresh).1 =
    .ok [0x45#16, 0x30#16, 0x20#16, 0x43#16, 0x37#16, 0x20#16, 0x32#16, 0x39#16] := by rfl

/-- spec/70_reset_and_hazards.md R283; spec/60_exceptions.md R256. -/
theorem test_key_string : packKey ['1', '0', '1', '0', '0', '0', '0', '0', '1', '0'] = .ok 0x282#10 ∧
    packKey ['1', '0', '1'] = .error .invalidKeyFormat ∧
    packKey ['1', '0', '1', '0', '0', '0', '0', '0', '1', '2'] = .error .invalidKeyFormat := ⟨rfl, rfl, rfl⟩

/-- spec/43_codec.md R211: a length that is no multiple of 8. -/
theorem test_block_size : chunkBits [false, true, false, false, false, false, false, true] = .ok [0x41#8] ∧
    chunkBits [true, true] = .error .blockSize := ⟨rfl, rfl⟩

/-- spec/30_encoding.md R88: the example's spelling, a string literal, a character, and an operand too wide. -/
theorem test_assemble :
    assemble "ks.load".toList ["0b1010000010".toList] = some (.ksLoad 0x282#10) ∧
    assemble "CD.B64D".toList ["\"FQ==\"".toList] = some (.cdB64d 0x46#8 0x51#8 0x3D#8 0x3D#8) ∧
    assemble "CD.T2B".toList ["'A'".toList] = some (.cdT2b 0x41#16) ∧
    assemble "KS.LOAD".toList ["0x400".toList] = none ∧ assemble "BC.ENCK".toList ["1023".toList] = none := by decide

/-! Witnesses: the hypotheses of each statement met together, at the edges of their ranges. -/

theorem witness_ADecodedWordIsItsCommandsEncoding : decode 0x42_00FFFFFF#40 = .ok (.cdB64e 0#2 0xFF#8 0xFF#8 0xFF#8) := by rfl

/-- Both ends of every illegal range, and the defined values beside them. -/
theorem witness_UndefinedOpEndsInIllegalOp :
    (∀ op ∈ [0x02#8, 0x0F#8, 0x15#8, 0x1F#8, 0x27#8, 0x2F#8, 0x37#8, 0x3F#8, 0x45#8, 0xFF#8], Undefined op) ∧
    (∀ op ∈ [0x00#8, 0x01#8, 0x10#8, 0x14#8, 0x20#8, 0x26#8, 0x30#8, 0x36#8, 0x40#8, 0x44#8], ¬ Undefined op) ∧
    opOf 0x15_FFFFFFFF#40 = 0x15#8 ∧ opOf 0x14_00000400#40 = 0x14#8 ∧
    argOf 0x14_00000400#40 &&& reservedMask 0x14#8 ≠ 0#32 := by
  unfold Undefined
  decide

/-- The lowest reserved bit of a format, and every field bit of it. -/
theorem witness_ReservedBitsDecideWhetherADefinedOpDecodes :
    ¬ Undefined (opOf 0x25_00001000#40) ∧ argOf 0x25_00001000#40 &&& reservedMask (opOf 0x25_00001000#40) ≠ 0#32 ∧
    ¬ Undefined (opOf 0x25_00000FFF#40) ∧ argOf 0x25_00000FFF#40 &&& reservedMask (opOf 0x25_00000FFF#40) = 0#32 := by
  unfold Undefined
  decide

/-- The two sides of every statement that speaks of an OP's words: for each reserved mask, an ARG with its lowest
bit set and the ARG of all field bits. -/
theorem witness_WordRuns :
    [0xFFFFFFFF#32, 0xFFFFFC00#32, 0xFFFFFFF0#32, 0xFFFFFF00#32, 0xFFFFF000#32, 0xFFFF0000#32, 0xFFFC0000#32, 0xFC000000#32].all
      (fun m => (~~~ m + 1#32) &&& m != 0#32 && ~~~ m &&& m == 0#32) = true ∧ (0xFFFFFFFF#32 &&& 0#32) = 0#32 := by decide

theorem witness_AStepCompletesTheWordInFlight :
    (inFlightState 0x14_00000282#40 [.read 0#8] fresh).inFlight = some 0x14_00000282#40 ∧
    hostWaits (inFlightState 0x14_00000282#40 [.read 0#8] fresh) = true ∧
    decode 0x14_00000282#40 = .ok (.ksLoad 0x282#10) ∧ decode 0x14_00000400#40 = .error .reservedNonzero := ⟨rfl, rfl, rfl, rfl⟩

/-- Ready, held in reset, busy, newly accepted, withdrawn. -/
theorem witness_AWordIsAcceptedExactlyWhenReady :
    ((hostState [.issue 0x00_00000000#40] fresh).host = .issue 0x00_00000000#40 :: [] ∧ fresh.rst = false ∧ fresh.inFlight = none) ∧
    (step (held (hostState [.dropRst] fresh)) = .next (afterStep (held (hostState [.dropRst] fresh))) ∧ (held fresh).rst = true) ∧
    (step (inFlightState 0#40 [] fresh) = .next (afterStep (inFlightState 0#40 [] fresh)) ∧ (inFlightState 0#40 [] fresh).inFlight ≠ none) ∧
    (step (hostState [.issue 0#40] fresh) = .next (afterStep (hostState [.issue 0#40] fresh)) ∧
      (afterStep (hostState [.issue 0#40] fresh)).inFlight ≠ fresh.inFlight ∧ (afterStep (hostState [.issue 0#40] fresh)).inFlight ≠ none) ∧
    (hostState [.withdraw 0#40] fresh).host = .withdraw 0#40 :: [] := by
  refine ⟨⟨rfl, rfl, rfl⟩, ⟨rfl, rfl⟩, ⟨rfl, by decide⟩, ⟨rfl, by decide, by decide⟩, rfl⟩

/-- A word whose checks report a code, and a word that leaves one. -/
theorem witness_AFailingCommandWritesThreeThings :
    (Reports 0x02_00000000#40 fresh 1#4 ∧ (1#4 : BitVec 4) ≠ 0#4) ∧
    runWord 0x33_00000041#40 fresh = .next failed ∧ failed.status.err ≠ 0#4 := by
  have h : Undefined (opOf 0x02_00000000#40) := by unfold Undefined; decide
  exact ⟨⟨⟨fun _ => rfl, fun n => absurd h n, fun n => absurd h n⟩, by decide⟩, rfl, by decide⟩

/-- One word for each clause of the order of checks, at the edges where clauses meet. -/
theorem witness_TheFirstFailingCheckIsReported :
    errAfter 0x02_FFFFFFFF#40 fresh = 1#4 ∧ errAfter 0x43_FFFFFFFF#40 fresh = 5#4 ∧ errAfter 0x00_00000001#40 fresh = 2#4 ∧
    errAfter 0x42_00FFFFFF#40 fresh = 6#4 ∧ errAfter 0x42_01000001#40 fresh = 2#4 ∧ errAfter 0x42_02FFFF01#40 fresh = 2#4 ∧
    errAfter 0x42_02FFFF00#40 fresh = 0#4 ∧ errAfter 0x42_03FFFFFF#40 fresh = 0#4 ∧ errAfter 0x33_000000FF#40 fresh = 3#4 ∧
    errAfter 0x34_000000FF#40 loaded = 0#4 ∧ errAfter 0x40_000000FF#40 fresh = 0#4 ∧ errAfter 0x40_00000100#40 fresh = 4#4 ∧
    errAfter 0x43_2F2F2F2F#40 fresh = 0#4 ∧ errAfter 0x44_000000FF#40 fresh = 0#4 ∧
    runWord 0x44_000000FF#40 fresh = .next (afterWord 0x44_000000FF#40 fresh) := by
  refine ⟨?_, ?_, ?_, ?_, ?_, ?_, ?_, ?_, ?_, ?_, ?_, ?_, ?_, ?_, rfl⟩ <;> decide

/-- A failing word, a succeeding word that is not CTL.CLR, a step that clears ESTK, and both kinds of reset. -/
theorem witness_OnlyClrAndResetClearTheStickyError :
    (runWord 0x02_00000000#40 fresh = .next (afterWord 0x02_00000000#40 fresh) ∧ (afterWord 0x02_00000000#40 fresh).status.err ≠ 0#4) ∧
    (runWord 0#40 failed = .next (afterWord 0#40 failed) ∧ (afterWord 0#40 failed).status.err = 0#4 ∧ decode 0#40 = .ok .ctlNop) ∧
    (step (inFlightState 0x01_00000000#40 [] failed) = .next (afterStep (inFlightState 0x01_00000000#40 [] failed)) ∧
      failed.status.estk = true ∧ (afterStep (inFlightState 0x01_00000000#40 [] failed)).status.estk = false) ∧
    ResetComes (held (hostState [.dropRst] failed)) ∧ ResetComes (hostState [.powerCycle] failed) :=
  ⟨⟨rfl, by decide⟩, ⟨rfl, by decide, rfl⟩, ⟨rfl, by decide, by decide⟩, .inl ⟨[], rfl, rfl⟩, .inr ⟨[], rfl⟩⟩

/-- With no key, with one and no trace, with one and a trace, under both policies. -/
theorem witness_BcEncEnciphersUnderTheLoadedKey :
    fresh.status.kv = false ∧ (loaded.status.kv = true ∧ loaded.status.tbv = false) ∧
    (traced.status.kv = true ∧ traced.params.traceFirstOnly = true ∧ traced.status.tbv = true) ∧
    (everyBlock traced).status.kv = true ∧ (everyBlock traced).params.traceFirstOnly = false := by decide

/-- The same states for deciphering, with a trace of a deciphered block. -/
theorem witness_BcDecDeciphersUnderTheLoadedKey :
    fresh.status.kv = false ∧ (loaded.status.kv = true ∧ loaded.status.tbv = false) ∧
    ((afterCommand (.bcDec 0x15#8) loaded).status.kv = true ∧ (afterCommand (.bcDec 0x15#8) loaded).status.tbv = true) := by decide

theorem witness_TheRoundCommandsComputeTheBlock : loaded.status.kv = true ∧ keyOne loaded ≠ keyTwo loaded := by decide

set_option maxRecDepth 8000 in
theorem witness_DecipheringUndoesEnciphering : loaded.status.kv = true ∧ resAfter (.bcEnc 0x41#8) loaded ≠ 0x41#32 := by decide

theorem witness_TheDecipheringTraceMirrorsTheEnciphering : loaded.status.kv = true ∧ loaded.status.tbv = false := by decide

/-- Two states that differ in their trace, their result, the trace policy and the latency. -/
theorem witness_BlocksAreIndependent : loaded.keys = (withLatency 7 (everyBlock traced)).keys ∧
    loaded.status.kv = (withLatency 7 (everyBlock traced)).status.kv ∧
    loaded.params.sboxS0 = (withLatency 7 (everyBlock traced)).params.sboxS0 ∧
    loaded.params.sboxS1 = (withLatency 7 (everyBlock traced)).params.sboxS1 ∧
    loaded.params ≠ (withLatency 7 (everyBlock traced)).params ∧ loaded.tbk ≠ traced.tbk := by decide

theorem witness_TheTraceShowsTheFirstBlockOfAKey :
    fresh.params.traceFirstOnly = true ∧ (everyBlock fresh).params.traceFirstOnly = false := by decide

theorem witness_CdT2bRefusesCodesAbove255 : (255#16 : CharCode).toNat ≤ 255 ∧ 255 < (256#16 : CharCode).toNat := by decide

theorem witness_CdB64eEncodesOneGroup :
    (∃ b2 : Byte, b2 = 0#8) ∧ (∃ b1 b2 : Byte, b1 = 0#8 ∧ b2 = 0#8) ∧ (∃ b2 : Byte, b2 ≠ 0#8) ∧
      (∃ b1 b2 : Byte, b1 ≠ 0#8 ∨ b2 ≠ 0#8) :=
  ⟨⟨0#8, rfl⟩, ⟨0#8, 0#8, rfl, rfl⟩, ⟨1#8, by decide⟩, ⟨1#8, 0#8, .inl (by decide)⟩⟩

/-- A group for each way to be malformed: `=AAA`, `A===`, `AA=A`, a code above 0x7F third, a space last. -/
theorem witness_CdB64dDecodesOneGroup :
    Malformed 0x3D#8 0x41#8 0x41#8 0x41#8 ∧ Malformed 0x41#8 0x3D#8 0x3D#8 0x3D#8 ∧ Malformed 0x41#8 0x41#8 0x3D#8 0x41#8 ∧
      Malformed 0x41#8 0x41#8 0xC1#8 0x41#8 ∧ Malformed 0x41#8 0x41#8 0x41#8 0x20#8 := by
  have hp : ¬ InAlphabet 0x3D#8 := fun ⟨v, h⟩ => absurd h (by revert v; decide)
  have hc : ¬ InAlphabet 0xC1#8 := fun ⟨v, h⟩ => absurd h (by revert v; decide)
  have hs : ¬ InAlphabet 0x20#8 := fun ⟨v, h⟩ => absurd h (by revert v; decide)
  exact ⟨.inl hp, .inr (.inl hp), .inr (.inr (.inl ⟨rfl, by decide⟩)), .inr (.inr (.inr (.inl ⟨by decide, hc⟩))),
    .inr (.inr (.inr (.inr ⟨by decide, hs⟩)))⟩

theorem witness_CodecCommandsRoundTrip : (255#16 : CharCode).toNat ≤ 255 ∧ WellFormed (.cdB64e 1#2 0xFF#8 0#8 0#8) = true ∧
    WellFormed (.cdB64e 3#2 0#8 0xFF#8 0xFF#8) = true := by decide

theorem witness_DecryptingAnEncryptedTextGivesItBack : ∀ c ∈ ([0#16, 0x48#16, 255#16] : List CharCode), c.toNat ≤ 255 := by simp

theorem witness_AWideCharacterAbortsTheText : (∃ c ∈ ([0x41#16, 256#16] : List CharCode), 255 < c.toNat) ∧
    ∀ c ∈ ([0x41#16, 255#16] : List CharCode), c.toNat ≤ 255 := by simp

set_option maxRecDepth 8000 in
/-- A loaded state with a trace is coherent, and steps to another. -/
theorem witness_EveryStepKeepsCoherence :
    Coherent (inFlightState 0x14_000003FF#40 [] traced) ∧
    step (inFlightState 0x14_000003FF#40 [] traced) = .next (afterStep (inFlightState 0x14_000003FF#40 [] traced)) := by
  refine ⟨⟨by decide, by decide, by decide, fun _ => ?_, fun _ => .inl ?_, by decide⟩, rfl⟩ <;> decide

set_option maxRecDepth 8000 in
/-- Both ends of every unmapped range, and the registers beside them. -/
theorem witness_TheReadSpaceShowsTheRegisters :
    (readReg traced 0x02#8 = 0xA443#32 ∧ readReg traced 0x03#8 = 0#32 ∧ readReg traced 0x0F#8 = 0#32 ∧ readReg traced 0x10#8 = 0x282#32) ∧
    (readReg traced 0x15#8 = 0x43#32 ∧ readReg traced 0x16#8 = 0#32 ∧ readReg traced 0x17#8 = 0#32 ∧ readReg traced 0x18#8 = 0x41#32) ∧
    (readReg traced 0x20#8 = 0x15#32 ∧ readReg traced 0x21#8 = 0#32 ∧ readReg traced 0xFF#8 = 0#32) := by decide

theorem witness_ReadsChangeNoRegister :
    (hostState [.readNow 0x01#8] failed).host = .readNow 0x01#8 :: [] ∧
    ((hostState [.read 0x01#8] failed).host = .read 0x01#8 :: [] ∧ failed.inFlight = none ∧ failed.rst = false) ∧
    (afterStep (hostState [.read 0x01#8] failed)).rdData = 0x00010003#32 := ⟨rfl, ⟨rfl, rfl, rfl⟩, by decide⟩

theorem witness_ARacingReadIsOldOrNew :
    (inFlightState 0x14_00000282#40 [.readNow 0x02#8] fresh).host = .readNow 0x02#8 :: [] ∧
    (inFlightState 0x14_00000282#40 [.readNow 0x02#8] fresh).inFlight = some 0x14_00000282#40 := ⟨rfl, rfl⟩

/-- `rst` rises on a busy core, falls on an idle one, and power goes and returns. -/
theorem witness_AResetAbandonsTheCommandAndZeroesTheRegisters :
    (inFlightState 0x14_00000282#40 [.raiseRst] traced).host = .raiseRst :: [] ∧
    ((held (hostState [.dropRst] traced)).host = .dropRst :: [] ∧ (held traced).rst = true ∧ (held traced).inFlight = none) ∧
    (hostState [.powerCycle] traced).host = .powerCycle :: [] := ⟨rfl, ⟨rfl, rfl, rfl⟩, rfl⟩

theorem witness_AnAcceptedCommandEnds : (inFlightState 0#40 [.readNow 0#8, .issue 0#40] fresh).inFlight = some 0#40 := rfl

theorem witness_NoStepChangesAParameter :
    step (held (hostState [.dropRst] traced)) = .next (afterStep (held (hostState [.dropRst] traced))) := rfl

theorem witness_NoStepDependsOnTheLatency :
    step (inFlightState 0x33_00000041#40 [] loaded) = .next (afterStep (inFlightState 0x33_00000041#40 [] loaded)) := rfl

theorem witness_RepeatingAWordChangesNothing : runWord 0x33_00000041#40 loaded = .next traced := rfl

/-- A step that changes KEYS, one that changes TBK0 and sets TBV, one that clears TBV, one that changes ERR. -/
theorem witness_RegistersChangeOnlyByTheirCommands :
    (step (inFlightState 0x14_00000282#40 [] fresh) = .next (afterStep (inFlightState 0x14_00000282#40 [] fresh)) ∧
      (afterStep (inFlightState 0x14_00000282#40 [] fresh)).keys ≠ fresh.keys) ∧
    (step (inFlightState 0x34_00000015#40 [] loaded) = .next (afterStep (inFlightState 0x34_00000015#40 [] loaded)) ∧
      (afterStep (inFlightState 0x34_00000015#40 [] loaded)).tbk ≠ loaded.tbk ∧
      loaded.status.tbv = false ∧ (afterStep (inFlightState 0x34_00000015#40 [] loaded)).status.tbv = true) ∧
    (step (inFlightState 0x14_00000001#40 [] traced) = .next (afterStep (inFlightState 0x14_00000001#40 [] traced)) ∧
      traced.status.tbv = true ∧ (afterStep (inFlightState 0x14_00000001#40 [] traced)).status.tbv = false) ∧
    (step (held (hostState [.dropRst] failed)) = .next (afterStep (held (hostState [.dropRst] failed))) ∧
      (afterStep (held (hostState [.dropRst] failed))).status.err ≠ failed.status.err) :=
  ⟨⟨rfl, by decide⟩, ⟨rfl, by decide, by decide, by decide⟩, ⟨rfl, by decide, by decide⟩, ⟨rfl, by decide⟩⟩

/-- The largest value of a field and one more, omitted bytes, a mnemonic of the table, and a whole command. -/
theorem witness_TheAssemblerNeverTruncates :
    Spells [1023] (.ksLoad 0x3FF#10) ∧ asmOperands 0x14#8 [.number 1024] = none ∧
    Spells [1, 255] (.cdB64e 1#2 0xFF#8 0#8 0#8) ∧ asmOperands 0x42#8 [.number 4] = none ∧
    ("BC.ENCK", "bc.enck", 0x35#8) ∈ mnemonicRows ∧ asmOp "bc.Enck".toList = some 0x35#8 ∧
    assemble "bc.enck".toList ["1023".toList, "0xff".toList] = some (.bcEnck 0x3FF#10 0xFF#8) := by
  unfold Spells mnemonicRows
  decide

/-- A literal of one digit and of more digits than a field has, and characters with no quote among them. -/
theorem witness_LiteralsAreReadAsTheirValues :
    ([9] : List (Fin 10)) ≠ [] ∧ ([1, 0, 0, 0, 0, 0, 0, 0, 0, 0, 0] : List (Fin 2)) ≠ [] ∧ ([15, 10] : List (Fin 16)) ≠ [] ∧
    '"' ∉ ['F', 'Q', '=', '='] ∧ readOperand "0xFa".toList = some (.number 250) := by decide

end Sys2Proof.Tests
end

section
/-! PROOFS. The registers after a clear and after reset (spec/10_state.md R47). -/

namespace Sys2Proof.Machine

open Sys2Proof.Claims

/-- STATUS with every field 0 reads 0: its layout adds no bit (R34). -/
@[simp] theorem statusWord_reset : statusWord Status.reset = 0#32 := by decide

@[simp] theorem zext32_zero (n : Nat) : zext32 0#n = 0#32 := BitVec.setWidth_zero 32 n

/-- Each mapped index shows a register that `clearRegs` made 0, and every other index reads 0 anyway (R61). -/
@[simp] theorem readReg_clearRegs (s : State) (a : RAddr) : readReg (clearRegs s) a = 0#32 := by
  unfold readReg
  split <;> simp [KeyTrace.reset, BlockTrace.reset]

/-- `clearRegs` is the whole of what R47 asks of the registers, from any state. -/
theorem zeroRegs_clearRegs (s : State) : ZeroRegs (clearRegs s) :=
  ⟨rfl, rfl, rfl, rfl, rfl, rfl, rfl, rfl, rfl, rfl, rfl, rfl, rfl, rfl, rfl, rfl, rfl, rfl, rfl, rfl, rfl,
    readReg_clearRegs s⟩

/-- The registers of the state after reset are those `clearRegs` leaves, so clearing them changes nothing. -/
@[simp] theorem clearRegs_reset : clearRegs State.reset = State.reset := rfl

/-- Settles O46: the state after reset is its own clearing, and a clearing leaves every register 0. -/
theorem resetLeavesEveryRegisterZero : Obligations.ResetLeavesEveryRegisterZero := by
  have h := zeroRegs_clearRegs State.reset
  rwa [clearRegs_reset] at h

end Sys2Proof.Machine
end

section
/-! PROOFS. What the read port shows at each index (spec/20_memory.md R61; spec/10_state.md R34, R36). -/

namespace Sys2Proof.Machine

open Sys2Proof.Claims

/-- Fields put side by side are a sum, each weighted by the width below it. -/
theorem toNat_append_eq_add {n m : Nat} (x : BitVec n) (y : BitVec m) :
    (x ++ y).toNat = 2 ^ m * x.toNat + y.toNat := by
  rw [BitVec.toNat_append, ← Nat.shiftLeft_add_eq_or_of_lt y.isLt, Nat.shiftLeft_eq, Nat.mul_comm]

/-- STATUS's layout as a sum: every bit outside the four fields is 0 (R34). -/
theorem statusWord_eq_sum (st : Status) :
    statusWord st = BitVec.ofNat 32 (st.err.toNat + 2 ^ 8 * st.kv.toNat + 2 ^ 9 * st.tbv.toNat + 2 ^ 16 * st.estk.toNat) := by
  apply BitVec.eq_of_toNat_eq
  have herr := st.err.isLt
  have hkv := st.kv.toNat_lt
  have htbv := st.tbv.toNat_lt
  have hestk := st.estk.toNat_lt
  simp only [statusWord, toNat_append_eq_add, BitVec.toNat_ofBool, BitVec.toNat_ofNat]
  omega

/-- KEYS is its two halves K1 and K2 put together (R36). -/
theorem k1Of_append_k2Of (s : State) : k1Of s ++ k2Of s = s.keys := append_extractLsb' (n := 8) (m := 8) s.keys

/-- An index that holds no register reads 0 (R61). -/
theorem readReg_unmapped (s : State) (a : RAddr)
    (h : (0x03 ≤ a.toNat ∧ a.toNat ≤ 0x0F) ∨ a.toNat = 0x16 ∨ a.toNat = 0x17 ∨ 0x21 ≤ a.toNat) : readReg s a = 0#32 := by
  unfold readReg
  split
  case h_19 => rfl
  all_goals simp at h

/-- Settles O49: the mapped indices by the read space's own cases, STATUS and KEYS by their layouts, every other
index by `readReg_unmapped`. -/
theorem theReadSpaceShowsTheRegisters : Obligations.TheReadSpaceShowsTheRegisters := by
  intro s
  refine ⟨rfl, statusWord_eq_sum s.status, ?_, rfl, rfl, rfl, rfl, rfl, rfl, rfl, rfl, rfl, rfl, rfl, rfl, rfl, rfl, rfl,
    readReg_unmapped s⟩
  rw [k1Of_append_k2Of]
  rfl

end Sys2Proof.Machine
end

section
/-! PROOFS. A block's result reads the block, KEYS, KV and the S-boxes alone (spec/20_memory.md R76). -/

namespace Sys2Proof.Machine

/-- The round function reads the parameters through the two S-boxes alone (spec/41_feistel_round.md R143). -/
theorem roundF_congr {p q : Params} (h0 : p.sboxS0 = q.sboxS0) (h1 : p.sboxS1 = q.sboxS1) : roundF p = roundF q := by
  funext r sk
  simp only [roundF, h0, h1]

/-- The block transform reads the parameters through the round function alone (spec/42_block_cipher.md R174). -/
theorem blk_congr {p q : Params} (h0 : p.sboxS0 = q.sboxS0) (h1 : p.sboxS1 = q.sboxS1) : blk p = blk q := by
  funext b rk1 rk2
  simp only [blk, roundF_congr h0 h1]

/-- The result of a block command: the transform under a loaded key, else the 0 of the error. -/
theorem cryptLoaded_res (b rk1 rk2 : Byte) (s : State) :
    (cryptLoaded b rk1 rk2 s).res = if s.status.kv then zext32 (blk s.params b rk1 rk2).tbk8 else 0#32 := by
  unfold cryptLoaded
  split <;> rfl

@[simp] theorem cryptLoaded_keys (b rk1 rk2 : Byte) (s : State) : (cryptLoaded b rk1 rk2 s).keys = s.keys := by
  unfold cryptLoaded; split <;> simp

@[simp] theorem cryptLoaded_kv (b rk1 rk2 : Byte) (s : State) : (cryptLoaded b rk1 rk2 s).status.kv = s.status.kv := by
  unfold cryptLoaded; split <;> simp

@[simp] theorem cryptLoaded_params (b rk1 rk2 : Byte) (s : State) : (cryptLoaded b rk1 rk2 s).params = s.params := by
  unfold cryptLoaded; split <;> simp

theorem afterCommand_bcEnc (b : Byte) (s : State) :
    afterCommand (.bcEnc b) s = cryptLoaded b (keyOne s) (keyTwo s) s := rfl

theorem afterCommand_bcDec (b : Byte) (s : State) :
    afterCommand (.bcDec b) s = cryptLoaded b (keyTwo s) (keyOne s) s := rfl

/-- Two states agree on everything of the state that a block's result reads. -/
structure SameBlockInputs (s s' : State) : Prop where
  keys : s.keys = s'.keys
  kv : s.status.kv = s'.status.kv
  sboxS0 : s.params.sboxS0 = s'.params.sboxS0
  sboxS1 : s.params.sboxS1 = s'.params.sboxS1

/-- A block command leaves what a block's result reads. -/
theorem sameBlockInputs_cryptLoaded (b rk1 rk2 : Byte) (s : State) : SameBlockInputs (cryptLoaded b rk1 rk2 s) s where
  keys := cryptLoaded_keys b rk1 rk2 s
  kv := cryptLoaded_kv b rk1 rk2 s
  sboxS0 := congrArg Params.sboxS0 (cryptLoaded_params b rk1 rk2 s)
  sboxS1 := congrArg Params.sboxS1 (cryptLoaded_params b rk1 rk2 s)

/-- Under the same round keys a block has the same result in both states. -/
theorem SameBlockInputs.cryptLoaded_res_eq {s s' : State} (h : SameBlockInputs s s') (b rk1 rk2 : Byte) :
    (cryptLoaded b rk1 rk2 s).res = (cryptLoaded b rk1 rk2 s').res := by
  rw [cryptLoaded_res, cryptLoaded_res, h.kv, blk_congr h.sboxS0 h.sboxS1]

/-- The round keys come from KEYS, so BC.ENC and BC.DEC have the same results in both states. -/
theorem SameBlockInputs.res_eq {s s' : State} (h : SameBlockInputs s s') (b : Byte) :
    (afterCommand (.bcEnc b) s).res = (afterCommand (.bcEnc b) s').res ∧
      (afterCommand (.bcDec b) s).res = (afterCommand (.bcDec b) s').res := by
  have h1 : keyOne s = keyOne s' := congrArg (BitVec.extractLsb' 8 8) h.keys
  have h2 : keyTwo s = keyTwo s' := congrArg (BitVec.extractLsb' 0 8) h.keys
  rw [afterCommand_bcEnc, afterCommand_bcEnc, afterCommand_bcDec, afterCommand_bcDec, h1, h2]
  exact ⟨h.cryptLoaded_res_eq b _ _, h.cryptLoaded_res_eq b _ _⟩

/-- Settles O32: a block's result is a function of `SameBlockInputs`, which no block command changes. -/
theorem blocksAreIndependent : Obligations.BlocksAreIndependent := by
  refine ⟨fun b s s' hkeys hkv h0 h1 => SameBlockInputs.res_eq ⟨hkeys, hkv, h0, h1⟩ b, fun b b' s => ?_⟩
  obtain ⟨encEnc, decEnc⟩ := (sameBlockInputs_cryptLoaded b' (keyOne s) (keyTwo s) s).res_eq b
  obtain ⟨encDec, decDec⟩ := (sameBlockInputs_cryptLoaded b' (keyTwo s) (keyOne s) s).res_eq b
  exact ⟨encEnc, encDec, decEnc, decDec⟩

end Sys2Proof.Machine
end

section
/-! PROOFS. A command run again in the state it left changes nothing (spec/20_memory.md R69). -/

namespace Sys2Proof.Machine

/-- The trace write reads neither RES nor ERR. -/
theorem writeTrace_succeed (t : BlockTrace) (r : Word) (s : State) :
    writeTrace t (succeed r s) = succeed r (writeTrace t s) := by
  cases h : s.params.traceFirstOnly && s.status.tbv with
  | true => rw [writeTrace_kept t s h, writeTrace_kept t (succeed r s) h]
  | false =>
    rw [writeTrace_written t s h, writeTrace_written t (succeed r s) h]
    rfl

/-- Writing a trace twice is writing it once, under both policies (spec/42_block_cipher.md R177). -/
theorem writeTrace_writeTrace (t : BlockTrace) (s : State) : writeTrace t (writeTrace t s) = writeTrace t s := by
  cases h : s.params.traceFirstOnly && s.status.tbv with
  | true => rw [writeTrace_kept t s h, writeTrace_kept t s h]
  | false =>
    rw [writeTrace_written t s h]
    unfold writeTrace
    split <;> rfl

theorem keyOne_writeTrace (t : BlockTrace) (s : State) : keyOne (writeTrace t s) = keyOne s :=
  congrArg (BitVec.extractLsb' 8 8) (writeTrace_keys t s)

theorem keyTwo_writeTrace (t : BlockTrace) (s : State) : keyTwo (writeTrace t s) = keyTwo s :=
  congrArg (BitVec.extractLsb' 0 8) (writeTrace_keys t s)

/-- A block command reads neither RES nor ERR. -/
theorem cryptLoaded_succeed (b rk1 rk2 : Byte) (r : Word) (s : State) :
    cryptLoaded b rk1 rk2 (succeed r s) = cryptLoaded b rk1 rk2 s := by
  cases h : s.status.kv with
  | true =>
    rw [cryptLoaded_of_kv _ _ _ _ h, cryptLoaded_of_kv _ _ _ (succeed r s) h, writeTrace_succeed]
    rfl
  | false =>
    rw [cryptLoaded_of_no_kv _ _ _ _ h, cryptLoaded_of_no_kv _ _ _ (succeed r s) h]
    rfl

/-- No command reads RES or ERR, so a success before it leaves no mark on what it does. -/
theorem exec_succeed (i : Instr) (r : Word) (s : State) : exec i (succeed r s) = exec i s := by
  cases i with
  | bcEnc b => exact congrArg Host.Outcome.next (cryptLoaded_succeed b (keyOne s) (keyTwo s) r s)
  | bcDec b => exact congrArg Host.Outcome.next (cryptLoaded_succeed b (keyTwo s) (keyOne s) r s)
  | _ => rfl

/-- With a key loaded, a block command reads nothing that its own trace write changes. -/
theorem cryptLoaded_writeTrace_blk (b rk1 rk2 : Byte) (s : State) (h : s.status.kv = true) :
    cryptLoaded b rk1 rk2 (writeTrace (blk s.params b rk1 rk2) s) = cryptLoaded b rk1 rk2 s := by
  rw [cryptLoaded_of_kv _ _ _ _ h, cryptLoaded_of_kv _ _ _ _ ((writeTrace_kv _ s).trans h), writeTrace_params,
    writeTrace_writeTrace]

/-- No error code is the 0 of success (spec/60_exceptions.md R250). -/
theorem errNumber_ne_zero (e : ErrCode) : errNumber e ≠ 0#4 := by cases e <;> decide

/-- With a key loaded a block command succeeds. -/
theorem cryptLoaded_err_of_kv (b rk1 rk2 : Byte) (s : State) (h : s.status.kv = true) :
    (cryptLoaded b rk1 rk2 s).status.err = 0#4 := by
  rw [cryptLoaded_of_kv b rk1 rk2 s h]
  rfl

/-- A command that fails, fails from the operands and KV alone: with the same KV it raises the same error in
every state (R250). -/
theorem exec_succeeds_or_raises (i : Instr) (s : State) :
    (∃ t, exec i s = .next t ∧ t.status.err = 0#4) ∨
      ∃ e, ∀ u : State, u.status.kv = s.status.kv → exec i u = .next (raiseError e u) := by
  cases i with
  | bcEnc b =>
    cases h : s.status.kv with
    | true => exact .inl ⟨_, rfl, cryptLoaded_err_of_kv _ _ _ _ h⟩
    | false => exact .inr ⟨_, fun u hu => congrArg Host.Outcome.next (cryptLoaded_of_no_kv _ _ _ u hu)⟩
  | bcDec b =>
    cases h : s.status.kv with
    | true => exact .inl ⟨_, rfl, cryptLoaded_err_of_kv _ _ _ _ h⟩
    | false => exact .inr ⟨_, fun u hu => congrArg Host.Outcome.next (cryptLoaded_of_no_kv _ _ _ u hu)⟩
  | cdT2b c =>
    by_cases h : c.toNat ≤ 0xFF
    · exact .inl ⟨_, execCdT2b_of_le c s h, rfl⟩
    · exact .inr ⟨_, fun u _ => execCdT2b_of_gt c u (by omega)⟩
  | cdB64e cnt b0 b1 b2 =>
    by_cases h0 : cnt = 0#2
    · exact .inr ⟨.badCount, fun u _ => by simp [exec, execCdB64e, h0]⟩
    · cases h1 : tailNonzero cnt b1 b2 with
      | true => exact .inr ⟨.reservedNonzero, fun u _ => by simp [exec, execCdB64e, h0, h1]⟩
      | false => exact .inl ⟨_, execCdB64e_of_ok cnt b0 b1 b2 s h0 h1, rfl⟩
  | cdB64d c0 c1 c2 c3 =>
    cases h : b64dGroup c0 c1 c2 c3 with
    | none => exact .inr ⟨_, fun u _ => execCdB64d_of_none c0 c1 c2 c3 u h⟩
    | some g => exact .inl ⟨_, execCdB64d_of_some c0 c1 c2 c3 s g h, rfl⟩
  | _ => exact .inl ⟨_, rfl, rfl⟩

/-- A command that raised an error raises it again in the state it left, where KV is as before. -/
theorem exec_raiseError {i : Instr} {e : ErrCode} {s : State} (h : exec i s = .next (raiseError e s)) :
    exec i (raiseError e s) = .next (raiseError e s) := by
  obtain ⟨t, ht, herr⟩ | ⟨e', raises⟩ := exec_succeeds_or_raises i s
  · rw [ht] at h
    cases h
    exact absurd herr (errNumber_ne_zero e)
  · have same : raiseError e' s = raiseError e s := Host.Outcome.next.inj ((raises s rfl).symm.trans h)
    calc exec i (raiseError e s) = .next (raiseError e' (raiseError e s)) := raises _ rfl
      _ = .next (raiseError e' s) := rfl
      _ = .next (raiseError e s) := congrArg Host.Outcome.next same

/-- A command run again in the state it left leaves that state: by the ways a command can end. -/
theorem exec_repeat {i : Instr} {s t : State} (h : exec i s = .next t) : exec i t = .next t := by
  cases effect_of_exec h with
  | result r => exact (exec_succeed i r s).trans h
  | error e legal => exact exec_raiseError h
  | clear isClr => subst isClr; rfl
  | load key isLoad => subst isLoad; rfl
  | enc b isEnc kv =>
    subst isEnc
    rw [exec_succeed, ← h]
    exact congrArg Host.Outcome.next (by rw [keyOne_writeTrace, keyTwo_writeTrace, cryptLoaded_writeTrace_blk _ _ _ _ kv])
  | dec b isDec kv =>
    subst isDec
    rw [exec_succeed, ← h]
    exact congrArg Host.Outcome.next (by rw [keyOne_writeTrace, keyTwo_writeTrace, cryptLoaded_writeTrace_blk _ _ _ _ kv])

/-- Settles O56: a word that decodes repeats as its command does, and one that does not raises its error again. -/
theorem repeatingAWordChangesNothing : Obligations.RepeatingAWordChangesNothing := by
  intro w s t h
  cases hd : decode w with
  | ok i =>
    rw [runWord_of_ok hd] at h ⊢
    exact exec_repeat h
  | error e =>
    rw [runWord_of_error hd] at h ⊢
    cases h
    rfl

end Sys2Proof.Machine
end

section
/-! PROOFS. Which check of the decoder a word fails, by its OP and its reserved ARG bits (spec/30_encoding.md
R84 to R87). -/

namespace Sys2Proof.Machine

open Sys2Proof.Claims

/-- No row of the opcode map lies in a range of R86. -/
theorem not_undefined_of_mem_opRows : ∀ r ∈ opRows, ¬ Undefined r.op := by
  unfold Undefined
  decide

/-- Between the ranges of R86 every OP value has a row. -/
theorem exists_row_of_not_undefined {op : Byte} (h : ¬ Undefined op) : ∃ r ∈ opRows, r.op = op := by
  have hlt := op.isLt
  unfold Undefined at h
  simp only [opRows, opRowsKey, opRowsRound, opRowsBlock, opRowsCodec, List.cons_append, List.nil_append,
    List.exists_mem_cons_iff, ← BitVec.toNat_inj, BitVec.toNat_ofNat]
  omega

/-- The format of each row reserves the bits that R82 reserves for its OP. -/
theorem rsv_format_eq_reservedMask : ∀ r ∈ opRows, rsv r.format = reservedMask r.op := by decide

/-- Each row builds commands of its own OP, from every ARG. -/
theorem opByte_build (arg : Word) : ∀ r ∈ opRows, opByte (r.build arg) = r.op := by
  simp [opRows, opRowsKey, opRowsRound, opRowsBlock, opRowsCodec, opByte]

/-- The row found for an OP is a row of the map, with that OP. -/
theorem mem_of_opRow {op : Byte} {r : OpRow} (h : opRow op = some r) : r ∈ opRows ∧ r.op = op := by
  unfold opRow at h
  have hop := List.find?_some h
  exact ⟨List.mem_of_find?_eq_some h, beq_iff_eq.1 hop⟩

/-- An OP in the ranges of R86 has no row. -/
theorem opRow_of_undefined {op : Byte} (h : Undefined op) : opRow op = none :=
  List.find?_eq_none.2 fun r hr heq => not_undefined_of_mem_opRows r hr (beq_iff_eq.1 heq ▸ h)

/-- An OP outside the ranges of R86 is found in the opcode map. -/
theorem opRow_of_defined {op : Byte} (h : ¬ Undefined op) : ∃ r ∈ opRows, r.op = op ∧ opRow op = some r := by
  obtain ⟨r, hr, hop⟩ := exists_row_of_not_undefined h
  have found : (opRow op).isSome := List.find?_isSome.2 ⟨r, hr, beq_iff_eq.2 hop⟩
  obtain ⟨q, hq⟩ := Option.isSome_iff_exists.1 found
  obtain ⟨hmem, hop⟩ := mem_of_opRow hq
  exact ⟨q, hmem, hop, hq⟩

/-- A word with an undefined OP is ILLEGAL_OP, whatever its ARG (R86). -/
theorem decode_of_undefined {w : CmdWord} (h : Undefined (opOf w)) : decode w = .error .illegalOp :=
  decode_of_no_row w (opRow_of_undefined h)

/-- The decoder on a defined OP, by the mask of R82 alone: a command of that OP, or RESERVED_NONZERO (R84). -/
theorem decode_of_defined {w : CmdWord} (h : ¬ Undefined (opOf w)) :
    ∃ i, opByte i = opOf w ∧
      decode w = if argOf w &&& reservedMask (opOf w) = 0#32 then .ok i else .error .reservedNonzero := by
  obtain ⟨r, hr, hop, hrow⟩ := opRow_of_defined h
  refine ⟨r.build (argOf w), (opByte_build _ r hr).trans hop, ?_⟩
  rw [decode_of_row w r hrow, rsv_format_eq_reservedMask r hr, hop]

/-- `raiseError` makes the error outcome of R252. -/
theorem isError_raiseError (e : ErrCode) (s : State) : IsError (errNumber e) s (raiseError e s) := by
  simp [IsError, SamePorts]

/-- A word that does not decode leaves the error outcome with its code (R87, R252). -/
theorem runWord_isError {w : CmdWord} {e : ErrCode} (h : decode w = .error e) (s : State) :
    ∃ t, runWord w s = .next t ∧ IsError (errNumber e) s t :=
  ⟨_, runWord_of_error h s, isError_raiseError e s⟩

/-- Settles O5: the reserved mask decides which way `decode_of_defined` goes. -/
theorem reservedBitsDecideWhetherADefinedOpDecodes : Obligations.ReservedBitsDecideWhetherADefinedOpDecodes := by
  intro w s hdef
  obtain ⟨i, hop, hd⟩ := decode_of_defined hdef
  exact ⟨fun hbits => runWord_isError (hd.trans (if_neg hbits)) s, fun hzero => ⟨i, hd.trans (if_pos hzero), hop⟩⟩

/-- Settles O4: an undefined OP has no row; a defined one decodes, or fails the reserved-bit check instead, as O5
says. -/
theorem undefinedOpEndsInIllegalOp : Obligations.UndefinedOpEndsInIllegalOp := by
  refine ⟨fun w s hundef => runWord_isError (decode_of_undefined hundef) s, fun w hdef => ?_,
    fun w s hdef => (reservedBitsDecideWhetherADefinedOpDecodes w s hdef).1⟩
  obtain ⟨i, -, hd⟩ := decode_of_defined hdef
  rw [hd]
  split <;> nofun

end Sys2Proof.Machine
end

section
/-! PROOFS. A row of the opcode map as the statements' `WordRuns`, and a success as their `Answers`
(spec/30_encoding.md R84 to R87; spec/60_exceptions.md R251). -/

namespace Sys2Proof.Machine

open Sys2Proof.Claims

/-- A row of the opcode map gives every word with its OP the meaning R84 and R87 ask for. -/
theorem wordRuns_of_row {op : Byte} {reserved : Word} {command : Word → Instr} {r : OpRow} (hrow : opRow op = some r)
    (hrsv : rsv r.format = reserved) (hbuild : r.build = command) : WordRuns op reserved command := by
  subst hrsv hbuild
  intro arg s
  have hd := decode_of_row (op ++ arg) r (by rwa [opOf_append])
  rw [argOf_append] at hd
  exact ⟨fun hbits => runWord_isError (hd.trans (if_neg hbits)) s, fun hzero => runWord_of_ok (hd.trans (if_pos hzero)) s⟩

/-- A success writes RES and ERR and nothing else (spec/60_exceptions.md R251). -/
theorem onlyResErr_succeed (r : Word) (s : State) : OnlyResErr s (succeed r s) := by
  simp [OnlyResErr, SamePorts]

/-- A command that ends in a success answers its result. -/
theorem answers_of_succeed {i : Instr} {s : State} {r r' : Word} (h : exec i s = .next (succeed r s)) (hr : r = r') :
    Answers i s r' :=
  ⟨_, h, hr, rfl, onlyResErr_succeed r s⟩

end Sys2Proof.Machine
end

section
/-! PROOFS. Selections of bits by a table: the statements' `pick`, and the rotation of both halves
(spec/00_scope.md R11 to R13; spec/40_key_schedule.md R111). -/

namespace Sys2Proof.Machine

open Sys2Proof.Claims

/-- A list of bits is the value whose string positions they are (R11). -/
theorem word_eq_zext32 {m : Nat} {l : List Bool} (hl : l.length = m) (x : BitVec m)
    (h : ∀ i, i < m → l.getD i false = strBit x i) : word l = zext32 x := by
  subst hl
  have hx : BitVec.ofBoolListBE l = x := eq_of_strBit fun i hi => BitVec.getMsbD_ofBoolListBE.trans (h i hi)
  rw [word, hx, zext32]

/-- The statements' `pick` is the model's `perm`, zero-extended. -/
theorem zext32_perm {n m : Nat} (T : Vector (Fin n) m) {L : List Nat} (hL : T.toList.map Fin.val = L) (v : BitVec n) :
    zext32 (perm T v) = pick v L := by
  subst hL
  refine (word_eq_zext32 (by simp) _ fun i hi => ?_).symm
  rw [strBit_perm T v i hi]
  simp [hi, strBit]

theorem setWidth_zext32 {n : Nat} (v : BitVec n) (h : n ≤ 32) : (zext32 v).setWidth n = v := by
  rw [zext32, BitVec.setWidth_setWidth_of_le v h, BitVec.setWidth_eq]

/-- `perm` is the statements' `pick` at the table's width. -/
theorem perm_eq_pick {n m : Nat} (T : Vector (Fin n) m) {L : List Nat} (hL : T.toList.map Fin.val = L) (v : BitVec n)
    (hm : m ≤ 32) : perm T v = (pick v L).setWidth m := by
  rw [← zext32_perm T hL, setWidth_zext32 _ hm]

/-- Two selections in a row are one, by the composed table. -/
theorem perm_perm {n m k : Nat} {T : Vector (Fin m) k} {U : Vector (Fin n) m} {V : Vector (Fin n) k}
    (hV : ∀ i : Fin k, V[i] = U[T[i]]) (v : BitVec n) : perm T (perm U v) = perm V v := by
  apply eq_of_strBit
  intro i hi
  rw [strBit_perm T _ i hi, strBit_perm U v _ T[i].isLt, strBit_perm V v i hi]
  exact congrArg (fun p : Fin n => strBit v p) (hV ⟨i, hi⟩).symm

/-- Equal selections agree at every position their table names. -/
theorem strBit_eq_of_perm_eq {n m : Nat} {T : Vector (Fin n) m} {v v' : BitVec n} (h : perm T v = perm T v') {p : Fin n}
    (hp : ∃ i : Fin m, T[i] = p) : strBit v p = strBit v' p := by
  obtain ⟨⟨i, hi⟩, rfl⟩ := hp
  calc strBit v T[i] = strBit (perm T v) i := (strBit_perm T v i hi).symm
    _ = strBit (perm T v') i := by rw [h]
    _ = strBit v' T[i] := strBit_perm T v' i hi

/-- R13: position `i` of a half rotated by `k` is its position `(i + k) mod 5`. -/
theorem strBit_rotl5 (h : KeyHalf) {k i : Nat} (hk : k < 5) (hi : i < 5) : strBit (rotl5 h k) i = strBit h ((i + k) % 5) := by
  unfold strBit rotl5
  rw [BitVec.getMsbD_or, BitVec.getMsbD_shiftLeft, BitVec.getMsbD_ushiftRight]
  by_cases hw : i + k < 5
  · simp [Nat.mod_eq_of_lt hw, show i < 5 - k by omega]
  · have hmod : (i + k) % 5 = i - (5 - k) := by omega
    simp [hmod, hi, BitVec.getMsbD_of_ge h (i + k) (by omega), show ¬ i < 5 - k by omega]

/-- The string positions of a field, counted from the field's first bit (R10, R11). -/
theorem strBit_extractLsb' {n lo w i : Nat} (v : BitVec n) (hi : i < w) (h : lo + w ≤ n) :
    strBit (v.extractLsb' lo w) i = strBit v (n - (lo + w) + i) := by
  have hpos : n - (lo + w - i) = n - (lo + w) + i := by omega
  simp [strBit, BitVec.getMsbD_extractLsb', hi, show lo + w - i ≤ n by omega, hpos]

/-- R111: position `i` of `ls` is position `5*(i div 5) + ((i + k) mod 5)`, in the same half. -/
theorem strBit_ls (v : Key) {k i : Nat} (hk : k < 5) (hi : i < 10) :
    strBit (ls v k) i = strBit v (5 * (i / 5) + (i + k) % 5) := by
  have happ : strBit (ls v k) i =
      if 5 ≤ i then strBit (rotl5 (v.extractLsb' 0 5) k) (i - 5) else strBit (rotl5 (v.extractLsb' 5 5) k) i :=
    BitVec.getMsbD_append
  have hlt : ∀ j, j % 5 < 5 := fun j => Nat.mod_lt j (by decide)
  rw [happ]
  split
  · have hpos : 5 + (i - 5 + k) % 5 = 5 * (i / 5) + (i + k) % 5 := by omega
    rw [strBit_rotl5 _ hk (by omega), strBit_extractLsb' _ (hlt _) (by decide), ← hpos]
  · have hpos : 0 + (i + k) % 5 = 5 * (i / 5) + (i + k) % 5 := by omega
    rw [strBit_rotl5 _ hk (by omega), strBit_extractLsb' _ (hlt _) (by decide), ← hpos]

/-- A rotation of both halves is a selection, by any table with the positions of R111. -/
theorem ls_eq_perm {k : Nat} (hk : k < 5) (T : Vector (Fin 10) 10)
    (hT : ∀ i : Fin 10, (T[i]).val = 5 * (i.val / 5) + (i.val + k) % 5) (v : Key) : ls v k = perm T v := by
  apply eq_of_strBit
  intro i hi
  rw [strBit_ls v hk hi, strBit_perm T v i hi]
  exact congrArg (strBit v) (hT ⟨i, hi⟩).symm

end Sys2Proof.Machine
end

section
/-! PROOFS. Every value of the key schedule is one selection of the key's bits (spec/40_key_schedule.md R110 to
R119). -/

namespace Sys2Proof.Machine

open Sys2Proof.Claims

/-- KS.ROT1's positions, by the formula of R111. -/
def tableRot1 : Vector (Fin 10) 10 := #v[1, 2, 3, 4, 0, 6, 7, 8, 9, 5]

/-- KS.ROT2's positions, by the formula of R111. -/
def tableRot2 : Vector (Fin 10) 10 := #v[2, 3, 4, 0, 1, 7, 8, 9, 5, 6]

theorem ls_one (v : Key) : ls v 1 = perm tableRot1 v := ls_eq_perm (by decide) tableRot1 (by decide) v

theorem ls_two (v : Key) : ls v 2 = perm tableRot2 v := ls_eq_perm (by decide) tableRot2 (by decide) v

/-- Settles O13: the results are `zext32_perm` at the tables P10 and P8. -/
theorem ksP10AndKsP8SelectPositions : Obligations.KsP10AndKsP8SelectPositions :=
  ⟨wordRuns_of_row rfl rfl rfl, wordRuns_of_row rfl rfl rfl,
    fun v _ => answers_of_succeed rfl (zext32_perm tableP10 rfl v),
    fun v _ => answers_of_succeed rfl (zext32_perm tableP8 rfl v)⟩

/-- Settles O14: a rotation is the selection by its table of R111, so `zext32_perm` gives its result. -/
theorem ksRotationsStayInTheirHalves : Obligations.KsRotationsStayInTheirHalves := by
  refine ⟨wordRuns_of_row rfl rfl rfl, wordRuns_of_row rfl rfl rfl, fun v _ => answers_of_succeed rfl ?_,
    fun v _ => answers_of_succeed rfl ?_⟩
  · rw [ls_one]; exact zext32_perm tableRot1 (by decide) v
  · rw [ls_two]; exact zext32_perm tableRot2 (by decide) v

/-- The key positions of TKS2, KS.ROT1's value in the schedule (R117). -/
def tableH1 : Vector (Fin 10) 10 := #v[4, 1, 6, 3, 2, 0, 8, 7, 5, 9]

/-- The key positions of K1 (R117). -/
def tableK1 : Vector (Fin 10) 8 := #v[0, 6, 8, 3, 7, 2, 9, 5]

/-- The key positions of TKS4, KS.ROT2's value in the schedule (R117). -/
def tableH2 : Vector (Fin 10) 10 := #v[6, 3, 2, 4, 1, 7, 5, 9, 0, 8]

/-- The key positions of K2 (R117). -/
def tableK2 : Vector (Fin 10) 8 := #v[7, 2, 5, 4, 9, 1, 8, 0]

theorem ks_h1 (key : Key) : (ks key).h1 = perm tableH1 key :=
  calc (ks key).h1 = perm tableRot1 (perm tableP10 key) := ls_one _
    _ = perm tableH1 key := perm_perm (by decide) key

theorem ks_k1 (key : Key) : (ks key).k1 = perm tableK1 key :=
  calc (ks key).k1 = perm tableP8 (perm tableH1 key) := congrArg (perm tableP8) (ks_h1 key)
    _ = perm tableK1 key := perm_perm (by decide) key

theorem ks_h2 (key : Key) : (ks key).h2 = perm tableH2 key :=
  calc (ks key).h2 = perm tableRot2 (ks key).h1 := ls_two _
    _ = perm tableRot2 (perm tableH1 key) := by rw [ks_h1]
    _ = perm tableH2 key := perm_perm (by decide) key

theorem ks_k2 (key : Key) : (ks key).k2 = perm tableK2 key :=
  calc (ks key).k2 = perm tableP8 (perm tableH2 key) := congrArg (perm tableP8) (ks_h2 key)
    _ = perm tableK2 key := perm_perm (by decide) key

theorem ks_k1_eq_subkeyOne (key : Key) : (ks key).k1 = subkeyOne key :=
  (ks_k1 key).trans (perm_eq_pick tableK1 rfl key (by decide))

theorem ks_k2_eq_subkeyTwo (key : Key) : (ks key).k2 = subkeyTwo key :=
  (ks_k2 key).trans (perm_eq_pick tableK2 rfl key (by decide))

theorem subkeys_eq (key : Key) : subkeys key = subkeyOne key ++ subkeyTwo key := by
  rw [subkeys, packTwo, ks_k1_eq_subkeyOne, ks_k2_eq_subkeyTwo]

/-- Settles O15: each value of the schedule is one selection of the key's bits, by its table of R117. -/
theorem ksLoadWritesTheSchedule : Obligations.KsLoadWritesTheSchedule := by
  refine ⟨wordRuns_of_row rfl rfl rfl, fun key s => ⟨_, rfl, ?_⟩⟩
  exact ⟨congrArg zext32 (subkeys_eq key), subkeys_eq key, rfl, perm_eq_pick tableP10 rfl key (by decide),
    (ks_h1 key).trans (perm_eq_pick tableH1 rfl key (by decide)), ks_k1_eq_subkeyOne key,
    (ks_h2 key).trans (perm_eq_pick tableH2 rfl key (by decide)), ks_k2_eq_subkeyTwo key,
    rfl, rfl, rfl, rfl, rfl, (effect_of_exec (i := .ksLoad key) rfl).samePorts⟩

/-- K1 of the state KS.LOAD leaves is the schedule's (R116). -/
theorem k1Of_afterCommand_ksLoad (key : Key) (s : State) : k1Of (afterCommand (.ksLoad key) s) = (ks key).k1 :=
  BitVec.extractLsb'_append_eq_left

theorem k2Of_afterCommand_ksLoad (key : Key) (s : State) : k2Of (afterCommand (.ksLoad key) s) = (ks key).k2 :=
  BitVec.extractLsb'_append_eq_right

/-- A 10-bit value in RES is the operand the host takes from there. -/
theorem operand_of_res {s : State} {v : Key} (h : s.res = zext32 v) : s.res.extractLsb' 0 10 = v := by
  rw [h, extractLsb'_zext32 v (by decide)]

/-- Settles O16: each command leaves the schedule's next value in RES, and the next command takes it from there. -/
theorem theKeyPrimitivesComputeTheSchedule : Obligations.TheKeyPrimitivesComputeTheSchedule := by
  intro key s load p r1 k1 r2 k2
  have hp : p.res = zext32 (ks key).p10 := rfl
  have hr1 : r1.res = zext32 (ks key).h1 := congrArg (fun v => zext32 (ls v 1)) (operand_of_res hp)
  have hk1 : k1.res = zext32 (ks key).k1 := congrArg (fun v => zext32 (perm tableP8 v)) (operand_of_res hr1)
  have hr2 : r2.res = zext32 (ks key).h2 := congrArg (fun v => zext32 (ls v 2)) (operand_of_res hr1)
  have hk2 : k2.res = zext32 (ks key).k2 := congrArg (fun v => zext32 (perm tableP8 v)) (operand_of_res hr2)
  rw [k1Of_afterCommand_ksLoad, k2Of_afterCommand_ksLoad]
  exact ⟨hk1, hk2, hp, hr1, hr2⟩

/-- The subkeys together hold every bit of the key. -/
theorem ks_subkeys_injective {key key' : Key} (h1 : (ks key).k1 = (ks key').k1) (h2 : (ks key).k2 = (ks key').k2) :
    key = key' := by
  rw [ks_k1, ks_k1] at h1
  rw [ks_k2, ks_k2] at h2
  have covered : ∀ p : Fin 10, (∃ i : Fin 8, tableK1[i] = p) ∨ ∃ i : Fin 8, tableK2[i] = p := by decide
  refine eq_of_strBit fun i hi => ?_
  obtain hmem | hmem := covered ⟨i, hi⟩
  · exact strBit_eq_of_perm_eq h1 hmem
  · exact strBit_eq_of_perm_eq h2 hmem

/-- Settles O17: KEYS holds both subkeys, which determine the key; TKS0 holds the key itself. -/
theorem loadedKeysAreToldApartByTheirSubkeys : Obligations.LoadedKeysAreToldApartByTheirSubkeys := by
  intro key key' s s'
  refine ⟨⟨fun hkeys => ?_, fun hkey => hkey ▸ rfl⟩, ⟨fun htks => congrArg KeyTrace.tks0 htks, fun hkey => hkey ▸ rfl⟩⟩
  apply ks_subkeys_injective
  · rw [← k1Of_afterCommand_ksLoad key s, ← k1Of_afterCommand_ksLoad key' s', k1Of, k1Of, hkeys]
  · rw [← k2Of_afterCommand_ksLoad key s, ← k2Of_afterCommand_ksLoad key' s', k2Of, k2Of, hkeys]

end Sys2Proof.Machine
end

section
/-! PROOFS. The round's commands, for every S-box content (spec/41_feistel_round.md R142 to R150). -/

namespace Sys2Proof.Machine

open Sys2Proof.Claims

/-- Settles O18: the results are `zext32_perm` at the tables EP and P4. -/
theorem frEpAndFrP4SelectPositions : Obligations.FrEpAndFrP4SelectPositions :=
  ⟨wordRuns_of_row rfl rfl rfl, wordRuns_of_row rfl rfl rfl,
    fun n _ => answers_of_succeed rfl (zext32_perm tableEP rfl n),
    fun n _ => answers_of_succeed rfl (zext32_perm tableP4 rfl n)⟩

/-- Settles O19: a bit of an exclusive OR is the exclusive OR of the bits, at each string position. -/
theorem frXorIsBitwise : Obligations.FrXorIsBitwise := by
  refine ⟨wordRuns_of_row rfl rfl rfl, fun a b _ => answers_of_succeed rfl ?_⟩
  refine (word_eq_zext32 (by simp) (a ^^^ b) fun i hi => ?_).symm
  calc ((List.range 8).map fun i => a.getMsbD i ^^ b.getMsbD i).getD i false
      = (a.getMsbD i ^^ b.getMsbD i) := by simp [hi]
    _ = strBit (a ^^^ b) i := BitVec.getMsbD_xor.symm

/-- Two bits side by side are a number, the first weighing 2. -/
theorem toNat_ofBool_append_ofBool (x y : Bool) :
    (BitVec.ofBool x ++ BitVec.ofBool y).toNat = 2 * x.toNat + y.toNat := by
  rw [toNat_append_eq_add, BitVec.toNat_ofBool, BitVec.toNat_ofBool, Nat.pow_one]

/-- R142: the outer bits number the row and the inner bits the column, whatever the S-box holds. -/
theorem sbox_eq_entry (n : Half) : ∃ row col : Fin 4,
    row.val = 2 * (n.getMsbD 0).toNat + (n.getMsbD 3).toNat ∧ col.val = 2 * (n.getMsbD 1).toNat + (n.getMsbD 2).toNat ∧
    ∀ S : SBox, sbox S n = (S.get row).get col :=
  ⟨_, _, toNat_ofBool_append_ofBool _ _, toNat_ofBool_append_ofBool _ _, fun _ => rfl⟩

/-- Settles O20: both S-boxes are read at the row and the column of `sbox_eq_entry`. -/
theorem frSboxCommandsReadRowAndColumn : Obligations.FrSboxCommandsReadRowAndColumn := by
  refine ⟨wordRuns_of_row rfl rfl rfl, wordRuns_of_row rfl rfl rfl, fun n s => ?_⟩
  obtain ⟨row, col, hrow, hcol, hentry⟩ := sbox_eq_entry n
  exact ⟨row, col, hrow, hcol, answers_of_succeed rfl (congrArg zext32 (hentry s.params.sboxS0)),
    answers_of_succeed rfl (congrArg zext32 (hentry s.params.sboxS1))⟩

/-- Settles O21: the steps of R143 are those of `roundF`, with EP and P4 as selections of positions. -/
theorem frFIsTheRoundFunction : Obligations.FrFIsTheRoundFunction := by
  refine ⟨wordRuns_of_row rfl rfl rfl, fun sk r s => answers_of_succeed rfl ?_⟩
  have hEP : perm tableEP r = (pick r [3, 0, 1, 2, 1, 2, 3, 0]).setWidth 8 := perm_eq_pick tableEP rfl r (by decide)
  rw [← hEP]
  exact zext32_perm tableP4 rfl _

theorem strBit_not {n i : Nat} (v : BitVec n) (hi : i < n) : strBit (~~~v) i = !strBit v i := by
  simp [strBit, BitVec.getMsbD_not, hi]

/-- A selection copies bits, so it commutes with the complement. -/
theorem perm_not {n m : Nat} (T : Vector (Fin n) m) (v : BitVec n) : perm T (~~~v) = ~~~perm T v := by
  apply eq_of_strBit
  intro i hi
  rw [strBit_perm T _ i hi, strBit_not v T[i].isLt, strBit_not _ hi, strBit_perm T v i hi]

/-- R149: EP and the exclusive OR cancel the two complements before the S-boxes are read. -/
theorem roundF_not_not (p : Params) (r : Half) (sk : Byte) : roundF p (~~~r) (~~~sk) = roundF p r sk := by
  have hx : perm tableEP (~~~r) ^^^ ~~~sk = perm tableEP r ^^^ sk := by rw [perm_not]; ext i; simp
  simp only [roundF, hx]

/-- Settles O22: the result is the round function's, which `roundF_not_not` leaves alone. -/
theorem theRoundFunctionIgnoresComplementingBoth : Obligations.TheRoundFunctionIgnoresComplementingBoth :=
  fun sk r s => congrArg zext32 (roundF_not_not s.params r sk)

/-- R150: a round passes the right half through. -/
@[simp] theorem lo4_fk (p : Params) (b sk : Byte) : lo4 (fk p b sk) = lo4 b := lo4_append _ _

@[simp] theorem hi4_fk (p : Params) (b sk : Byte) : hi4 (fk p b sk) = hi4 b ^^^ roundF p (lo4 b) sk := hi4_append _ _

/-- R150: a second round sees the same right half, so it cancels the first one's exclusive OR. -/
@[simp] theorem fk_fk (p : Params) (b sk : Byte) : fk p (fk p b sk) sk = b :=
  calc fk p (fk p b sk) sk
      = (hi4 b ^^^ roundF p (lo4 b) sk ^^^ roundF p (lo4 b) sk) ++ lo4 b := by rw [fk, hi4_fk, lo4_fk]
    _ = hi4 b ++ lo4 b := by rw [xor_cancel_right]
    _ = b := hi4_append_lo4 b

theorem afterCommand_frFk (sk b : Byte) (s : State) :
    afterCommand (.frFk sk b) s = succeed (zext32 (fk s.params b sk)) s := rfl

/-- Settles O23: the second round takes the first one's byte from RES, and `fk_fk` and `lo4_fk` say what it gives. -/
theorem frFkIsOneRoundAndUndoesItself : Obligations.FrFkIsOneRoundAndUndoesItself := by
  refine ⟨wordRuns_of_row rfl rfl rfl, fun sk b s => answers_of_succeed rfl rfl, fun sk b s => ?_⟩
  simp only [afterCommand_frFk, succeed_res, succeed_params]
  constructor
  · rw [extractLsb'_zext32 _ (by decide), fk_fk, zext32]
  · calc (zext32 (fk s.params b sk)).extractLsb' 0 4
        = lo4 (fk s.params b sk) := BitVec.extractLsb'_setWidth_of_le (by decide)
      _ = lo4 b := lo4_fk s.params b sk

end Sys2Proof.Machine
end

section
/-! PROOFS. The block transform, its commands and its trace, for every S-box content (spec/42_block_cipher.md R170
to R181). -/

namespace Sys2Proof.Machine

open Sys2Proof.Claims

/-- A selection undoes another one when the composed table keeps every position. -/
theorem perm_perm_cancel {n : Nat} {T U : Vector (Fin n) n} (h : ∀ i : Fin n, U[T[i]] = i) (v : BitVec n) :
    perm T (perm U v) = v := by
  apply eq_of_strBit
  intro i hi
  rw [strBit_perm T _ i hi, strBit_perm U v _ T[i].isLt]
  exact congrArg (fun p : Fin n => strBit v p) (h ⟨i, hi⟩)

/-- R170, the first equation. -/
@[simp] theorem perm_tableIPINV_tableIP (b : Byte) : perm tableIPINV (perm tableIP b) = b :=
  perm_perm_cancel (by decide) b

/-- R170, the second equation. -/
@[simp] theorem perm_tableIP_tableIPINV (b : Byte) : perm tableIP (perm tableIPINV b) = b :=
  perm_perm_cancel (by decide) b

/-- R173: exchanging the halves twice changes nothing. -/
@[simp] theorem swapHalves_swapHalves (b : Byte) : swapHalves (swapHalves b) = b := by
  simp [swapHalves]

/-- The positions that the exchange of the halves takes (R173). -/
def tableSW : Vector (Fin 8) 8 := #v[4, 5, 6, 7, 0, 1, 2, 3]

theorem tableSW_getElem : ∀ i : Fin 8, (tableSW[i]).val = if 4 ≤ i.val then i.val - 4 else i.val + 4 := by decide

/-- The exchange of the halves is a selection: each half's bits come from the other half's places (R173). -/
theorem swapHalves_eq_perm (b : Byte) : swapHalves b = perm tableSW b := by
  apply eq_of_strBit
  intro i hi
  have hpos : (tableSW[i]).val = if 4 ≤ i then i - 4 else i + 4 := tableSW_getElem ⟨i, hi⟩
  have happ : strBit (swapHalves b) i =
      if 4 ≤ i then strBit (b.extractLsb' 4 4) (i - 4) else strBit (b.extractLsb' 0 4) i := BitVec.getMsbD_append
  rw [happ, strBit_perm tableSW b i hi, hpos]
  split
  · rw [strBit_extractLsb' b (by omega) (by decide), Nat.zero_add]
  · rw [strBit_extractLsb' b (by omega) (by decide), Nat.add_comm i 4]

/-- Settles O24: the results are `zext32_perm` at the tables IP and IP^-1 and at the exchange's positions. -/
theorem blockPermutationsSelectPositions : Obligations.BlockPermutationsSelectPositions := by
  refine ⟨wordRuns_of_row rfl rfl rfl, wordRuns_of_row rfl rfl rfl, wordRuns_of_row rfl rfl rfl,
    fun b _ => answers_of_succeed rfl (zext32_perm tableIP rfl b),
    fun b _ => answers_of_succeed rfl (zext32_perm tableIPINV rfl b), fun b _ => answers_of_succeed rfl ?_⟩
  rw [swapHalves_eq_perm]
  exact zext32_perm tableSW rfl b

theorem afterCommand_bcIp (b : Byte) (s : State) :
    afterCommand (.bcIp b) s = succeed (zext32 (perm tableIP b)) s := rfl

theorem afterCommand_bcIpinv (b : Byte) (s : State) :
    afterCommand (.bcIpinv b) s = succeed (zext32 (perm tableIPINV b)) s := rfl

theorem afterCommand_bcSw (b : Byte) (s : State) :
    afterCommand (.bcSw b) s = succeed (zext32 (swapHalves b)) s := rfl

/-- Settles O25: the second command takes the first one's byte from RES, and the two maps cancel. -/
theorem blockPermutationsUndoEachOther : Obligations.BlockPermutationsUndoEachOther := by
  intro b s ip inv sw
  have hip : ip.res.extractLsb' 0 8 = perm tableIP b := extractLsb'_zext32 _ (by decide)
  have hinv : inv.res.extractLsb' 0 8 = perm tableIPINV b := extractLsb'_zext32 _ (by decide)
  have hsw : sw.res.extractLsb' 0 8 = swapHalves b := extractLsb'_zext32 _ (by decide)
  rw [hip, hinv, hsw, afterCommand_bcIpinv, afterCommand_bcIp, afterCommand_bcSw, perm_tableIPINV_tableIP,
    perm_tableIP_tableIPINV, swapHalves_swapHalves]
  exact ⟨rfl, rfl, rfl⟩

/-- The model's transform has the nine values of R174. -/
theorem blockValues_blk (p : Params) (b rk1 rk2 : Byte) : BlockValues p b rk1 rk2 (blk p b rk1 rk2) :=
  ⟨rfl, perm_eq_pick tableIP rfl b (by decide), rfl, rfl, rfl, rfl, rfl, rfl,
    perm_eq_pick tableIPINV rfl _ (by decide)⟩

/-- The result of a block under a loaded key (R175, R176). -/
theorem cryptLoaded_res_of_kv {b rk1 rk2 : Byte} {s : State} (hkv : s.status.kv = true) :
    (cryptLoaded b rk1 rk2 s).res = zext32 (blk s.params b rk1 rk2).tbk8 := by
  rw [cryptLoaded_res, if_pos hkv]

/-- A block command writes its trace where none stands, or where every block is traced (R177). -/
theorem cryptLoaded_tbk_written {b rk1 rk2 : Byte} {s : State} (hkv : s.status.kv = true)
    (hpolicy : s.params.traceFirstOnly = false ∨ s.status.tbv = false) :
    (cryptLoaded b rk1 rk2 s).tbk = blk s.params b rk1 rk2 := by
  rw [cryptLoaded_of_kv b rk1 rk2 s hkv, succeed_tbk, writeTrace_written _ s (Bool.and_eq_false_iff.2 hpolicy)]

/-- A block command keeps a trace that stands where only the first block is traced (R177). -/
theorem cryptLoaded_tbk_kept {b rk1 rk2 : Byte} {s : State} (hkv : s.status.kv = true)
    (hpolicy : s.params.traceFirstOnly = true ∧ s.status.tbv = true) : (cryptLoaded b rk1 rk2 s).tbk = s.tbk := by
  rw [cryptLoaded_of_kv b rk1 rk2 s hkv, succeed_tbk, writeTrace_kept _ s (Bool.and_eq_true_iff.2 hpolicy)]

/-- Under both policies a trace stands after a block under a loaded key (R40). -/
theorem cryptLoaded_tbv {b rk1 rk2 : Byte} {s : State} (hkv : s.status.kv = true) :
    (cryptLoaded b rk1 rk2 s).status.tbv = true := by
  rw [cryptLoaded_of_kv b rk1 rk2 s hkv, succeed_status, statusOk_tbv, writeTrace_tbv]

/-- What a block command writes under a loaded key, and what it leaves (R175, R176). -/
theorem tracedBlock_cryptLoaded {b rk1 rk2 : Byte} {s : State} (hkv : s.status.kv = true) :
    TracedBlock s (cryptLoaded b rk1 rk2 s) (blk s.params b rk1 rk2) := by
  have heq := cryptLoaded_of_kv b rk1 rk2 s hkv
  have hestk : (cryptLoaded b rk1 rk2 s).status.estk = s.status.estk := by rw [heq]; simp
  have htks : (cryptLoaded b rk1 rk2 s).tks = s.tks := by rw [heq]; simp
  have hports : SamePorts s (cryptLoaded b rk1 rk2 s) := by rw [heq]; simp [SamePorts]
  exact ⟨cryptLoaded_res_of_kv hkv, cryptLoaded_err_of_kv b rk1 rk2 s hkv, hestk, cryptLoaded_kv b rk1 rk2 s,
    cryptLoaded_keys b rk1 rk2 s, htks, hports,
    fun hpolicy => ⟨cryptLoaded_tbk_kept hkv hpolicy, cryptLoaded_tbv hkv⟩,
    fun hpolicy => ⟨cryptLoaded_tbk_written hkv hpolicy, cryptLoaded_tbv hkv⟩⟩

/-- A command that is the block transform under two round keys, without and with a key loaded (R175, R176). -/
theorem fails_or_traces_of_cryptLoaded {i : Instr} {b rk1 rk2 : Byte} {s : State}
    (h : exec i s = .next (cryptLoaded b rk1 rk2 s)) :
    (s.status.kv = false → FailsWith i s 3#4) ∧
      (s.status.kv = true →
        ∃ t trace, exec i s = .next t ∧ BlockValues s.params b rk1 rk2 trace ∧ TracedBlock s t trace) := by
  constructor
  · intro hkv
    rw [cryptLoaded_of_no_kv b rk1 rk2 s hkv] at h
    exact ⟨_, h, isError_raiseError .keyNotLoaded s⟩
  · intro hkv
    exact ⟨_, _, h, blockValues_blk s.params b rk1 rk2, tracedBlock_cryptLoaded hkv⟩

/-- Settles O26: the round keys are those of KEYS, K1 first. -/
theorem bcEncEnciphersUnderTheLoadedKey : Obligations.BcEncEnciphersUnderTheLoadedKey :=
  ⟨wordRuns_of_row rfl rfl rfl, fun _ _ => fails_or_traces_of_cryptLoaded rfl⟩

/-- Settles O27: the round keys are those of KEYS, K2 first. -/
theorem bcDecDeciphersUnderTheLoadedKey : Obligations.BcDecDeciphersUnderTheLoadedKey :=
  ⟨wordRuns_of_row rfl rfl rfl, fun _ _ => fails_or_traces_of_cryptLoaded rfl⟩

theorem keyOne_of_keys {key : Key} {s : State} (h : s.keys = subkeys key) : keyOne s = (ks key).k1 := by
  rw [keyOne, h]; exact BitVec.extractLsb'_append_eq_left

theorem keyTwo_of_keys {key : Key} {s : State} (h : s.keys = subkeys key) : keyTwo s = (ks key).k2 := by
  rw [keyTwo, h]; exact BitVec.extractLsb'_append_eq_right

/-- With a key's subkeys in KEYS, BC.ENC is the transform under that key's schedule (R175). -/
theorem afterCommand_bcEnc_of_keys {key : Key} {s : State} (h : s.keys = subkeys key) (b : Byte) :
    afterCommand (.bcEnc b) s = cryptLoaded b (ks key).k1 (ks key).k2 s := by
  rw [afterCommand_bcEnc, keyOne_of_keys h, keyTwo_of_keys h]

theorem afterCommand_bcDec_of_keys {key : Key} {s : State} (h : s.keys = subkeys key) (b : Byte) :
    afterCommand (.bcDec b) s = cryptLoaded b (ks key).k2 (ks key).k1 s := by
  rw [afterCommand_bcDec, keyOne_of_keys h, keyTwo_of_keys h]

/-- The result of a block under the key just loaded. -/
theorem cryptLoaded_ksLoad_res (key : Key) (b rk1 rk2 : Byte) (s : State) :
    (cryptLoaded b rk1 rk2 (afterCommand (.ksLoad key) s)).res = zext32 (blk s.params b rk1 rk2).tbk8 :=
  cryptLoaded_res_of_kv rfl

/-- Settles O28: the transform under the key's subkeys, which KS.LOAD puts in KEYS. -/
theorem bcEnckAndBcDeckUseTheirOwnKey : Obligations.BcEnckAndBcDeckUseTheirOwnKey := by
  refine ⟨wordRuns_of_row rfl rfl rfl, wordRuns_of_row rfl rfl rfl, fun key b s => ?_⟩
  rw [← ks_k1_eq_subkeyOne, ← ks_k2_eq_subkeyTwo, afterCommand_bcEnc_of_keys (key := key) rfl,
    afterCommand_bcDec_of_keys (key := key) rfl, cryptLoaded_ksLoad_res, cryptLoaded_ksLoad_res]
  exact ⟨⟨_, blockValues_blk s.params b _ _, answers_of_succeed rfl rfl⟩,
    ⟨_, blockValues_blk s.params b _ _, answers_of_succeed rfl rfl⟩, rfl, rfl⟩

/-- The six equations of R181 between the trace `u` of deciphering a result and the trace `t` that gave it. -/
structure Mirrors (u t : BlockTrace) : Prop where
  ip : u.tbk1 = t.tbk7
  f1 : u.tbk2 = t.tbk5
  newL : u.tbk3 = hi4 t.tbk4
  f2 : u.tbk5 = t.tbk2
  comb : u.tbk7 = t.tbk1
  out : u.tbk8 = t.tbk0

/-- R181: with the round keys exchanged, each round of the second transform cancels one of the first, last round
first, whatever the round function is. -/
theorem mirrors_blk (p : Params) (b rk1 rk2 : Byte) :
    Mirrors (blk p (blk p b rk1 rk2).tbk8 rk2 rk1) (blk p b rk1 rk2) := by
  let t := blk p b rk1 rk2
  let u := blk p t.tbk8 rk2 rk1
  have ip : u.tbk1 = t.tbk7 := perm_tableIP_tableIPINV t.tbk7
  have left : hi4 u.tbk1 = t.tbk6 := by rw [ip]; exact hi4_append t.tbk6 t.tbk3
  have right : lo4 u.tbk1 = t.tbk3 := by rw [ip]; exact lo4_append t.tbk6 t.tbk3
  have f1 : u.tbk2 = t.tbk5 := congrArg (roundF p · rk2) right
  have newL : u.tbk3 = lo4 t.tbk1 :=
    calc u.tbk3 = hi4 u.tbk1 ^^^ u.tbk2 := rfl
      _ = lo4 t.tbk1 ^^^ t.tbk5 ^^^ t.tbk5 := by rw [left, f1]; rfl
      _ = lo4 t.tbk1 := xor_cancel_right _ _
  have f2 : u.tbk5 = t.tbk2 := congrArg (roundF p · rk1) newL
  have finL : u.tbk6 = hi4 t.tbk1 :=
    calc u.tbk6 = lo4 u.tbk1 ^^^ u.tbk5 := rfl
      _ = hi4 t.tbk1 ^^^ t.tbk2 ^^^ t.tbk2 := by rw [right, f2]; rfl
      _ = hi4 t.tbk1 := xor_cancel_right _ _
  have comb : u.tbk7 = t.tbk1 :=
    calc u.tbk7 = u.tbk6 ++ u.tbk3 := rfl
      _ = hi4 t.tbk1 ++ lo4 t.tbk1 := by rw [finL, newL]
      _ = t.tbk1 := hi4_append_lo4 t.tbk1
  have out : u.tbk8 = t.tbk0 :=
    calc u.tbk8 = perm tableIPINV t.tbk1 := congrArg (perm tableIPINV) comb
      _ = t.tbk0 := perm_tableIPINV_tableIP b
  exact ⟨ip, f1, newL.trans (hi4_append (lo4 t.tbk1) t.tbk3).symm, f2, comb, out⟩

/-- R180: the transform with the round keys exchanged undoes it. -/
theorem blk_blk_tbk8 (p : Params) (b rk1 rk2 : Byte) : (blk p (blk p b rk1 rk2).tbk8 rk2 rk1).tbk8 = b :=
  (mirrors_blk p b rk1 rk2).out

@[simp] theorem keyOne_cryptLoaded (b rk1 rk2 : Byte) (s : State) : keyOne (cryptLoaded b rk1 rk2 s) = keyOne s :=
  congrArg (BitVec.extractLsb' 8 8) (cryptLoaded_keys b rk1 rk2 s)

@[simp] theorem keyTwo_cryptLoaded (b rk1 rk2 : Byte) (s : State) : keyTwo (cryptLoaded b rk1 rk2 s) = keyTwo s :=
  congrArg (BitVec.extractLsb' 0 8) (cryptLoaded_keys b rk1 rk2 s)

/-- Settles O30: the second command takes the first one's byte from RES, and `blk_blk_tbk8` says what it gives. -/
theorem decipheringUndoesEnciphering : Obligations.DecipheringUndoesEnciphering := by
  refine ⟨fun b s hkv => ⟨_, _, rfl, rfl, ?_⟩, fun key b s => ⟨_, _, rfl, rfl, ?_⟩⟩
  · rw [cryptLoaded_res_of_kv hkv, extractLsb'_zext32 _ (by decide), keyOne_cryptLoaded, keyTwo_cryptLoaded,
      cryptLoaded_res_of_kv ((cryptLoaded_kv _ _ _ s).trans hkv), cryptLoaded_params, blk_blk_tbk8, zext32]
  · rw [succeed_res, succeed_res, extractLsb'_zext32 _ (by decide), succeed_params, blk_blk_tbk8, zext32]

/-- Settles O31: both commands write their trace, and `mirrors_blk` relates the two. -/
theorem theDecipheringTraceMirrorsTheEnciphering : Obligations.TheDecipheringTraceMirrorsTheEnciphering := by
  intro b s hkv htbv t u
  have ht : t.tbk = blk s.params b (keyOne s) (keyTwo s) := cryptLoaded_tbk_written hkv (.inr htbv)
  have hu : u.tbk = blk s.params t.tbk.tbk8 (keyTwo s) (keyOne s) := cryptLoaded_tbk_written hkv (.inr htbv)
  rw [hu, ht]
  obtain ⟨ip, f1, newL, f2, comb, out⟩ := mirrors_blk s.params b (keyOne s) (keyTwo s)
  exact ⟨ip, f1, newL, f2, comb, out⟩

/-- The trace of a block under the key just loaded is the transform's: KS.LOAD has cleared TBV (R177, R287). -/
theorem bcEnc_ksLoad_tbk (key : Key) (b : Byte) (s : State) :
    (afterCommand (.bcEnc b) (afterCommand (.ksLoad key) s)).tbk = blk s.params b (ks key).k1 (ks key).k2 := by
  rw [afterCommand_bcEnc_of_keys (key := key) rfl]
  exact cryptLoaded_tbk_written rfl (.inr rfl)

/-- Loading the key again gives a later block the same inputs. -/
theorem sameBlockInputs_ksLoad_again {key : Key} {s u : State} (hkeys : s.keys = subkeys key)
    (hkv : s.status.kv = true) (hparams : u.params = s.params) : SameBlockInputs s (afterCommand (.ksLoad key) u) where
  keys := hkeys
  kv := hkv
  sboxS0 := (congrArg Params.sboxS0 hparams).symm
  sboxS1 := (congrArg Params.sboxS1 hparams).symm

/-- Settles O33: the first block finds TBV 0 and writes its trace, the second finds TBV 1, and KS.LOAD clears it. -/
theorem theTraceShowsTheFirstBlockOfAKey : Obligations.TheTraceShowsTheFirstBlockOfAKey := by
  intro key b b' s load first second again
  rw [← ks_k1_eq_subkeyOne, ← ks_k2_eq_subkeyTwo]
  have hfirst : first = cryptLoaded b (ks key).k1 (ks key).k2 load := afterCommand_bcEnc_of_keys rfl b
  have hparams : first.params = s.params := by rw [hfirst, cryptLoaded_params]; rfl
  have hkeys : first.keys = subkeys key := by rw [hfirst, cryptLoaded_keys]; rfl
  have hkv : first.status.kv = true := by rw [hfirst, cryptLoaded_kv]; rfl
  have htbv : first.status.tbv = true := by rw [hfirst]; exact cryptLoaded_tbv rfl
  have hsecond : second = cryptLoaded b' (ks key).k1 (ks key).k2 first := afterCommand_bcEnc_of_keys hkeys b'
  have hsecondParams : second.params = s.params := by rw [hsecond, cryptLoaded_params, hparams]
  refine ⟨?_, ?_, ?_, ?_, ?_⟩
  · rw [bcEnc_ksLoad_tbk]; exact blockValues_blk _ _ _ _
  · intro hpolicy
    exact cryptLoaded_tbk_kept hkv ⟨hparams ▸ hpolicy, htbv⟩
  · intro hpolicy
    rw [hsecond, cryptLoaded_tbk_written hkv (.inl (hparams ▸ hpolicy)), hparams]
    exact blockValues_blk _ _ _ _
  · rw [bcEnc_ksLoad_tbk, hsecondParams]; exact blockValues_blk _ _ _ _
  · exact ((sameBlockInputs_ksLoad_again hkeys hkv (hsecondParams.trans hparams.symm)).res_eq b').1

end Sys2Proof.Machine
end

section
/-! PROOFS. The character, byte and hex commands (spec/43_codec.md R201, R202, R208). -/

namespace Sys2Proof.Machine

open Sys2Proof.Claims

/-- A command that ends in an error fails with that error's code (spec/60_exceptions.md R252). -/
theorem failsWith_of_raiseError {i : Instr} {s : State} {e : ErrCode} {code : BitVec 4}
    (h : exec i s = .next (raiseError e s)) (hcode : errNumber e = code) : FailsWith i s code :=
  ⟨_, h, hcode ▸ isError_raiseError e s⟩

/-- Zero extension keeps the number. -/
theorem zext32_eq_ofNat {n : Nat} (v : BitVec n) : zext32 v = BitVec.ofNat 32 v.toNat :=
  (BitVec.ofNat_toNat 32 v).symm

/-- A character code up to 255 is its low byte, zero-extended (R201). -/
theorem setWidth_lowByte_of_le {c : CharCode} (h : c.toNat ≤ 255) : (c.extractLsb' 0 8).setWidth 16 = c := by
  apply BitVec.eq_of_toNat_eq
  rw [BitVec.toNat_setWidth, BitVec.extractLsb'_toNat, Nat.shiftRight_zero]
  omega

/-- A byte's character code is the byte, on the way to 32 bits (R202). -/
@[simp] theorem zext32_setWidth_byte (b : Byte) : zext32 (b.setWidth 16) = zext32 b :=
  BitVec.setWidth_setWidth (by decide)

/-- CD.T2B's result is the whole code, since nothing stands above its low byte (R201). -/
theorem zext32_lowByte_of_le {c : CharCode} (h : c.toNat ≤ 255) : zext32 (c.extractLsb' 0 8) = zext32 c := by
  rw [← zext32_setWidth_byte, setWidth_lowByte_of_le h]

/-- Settles O34: up to 255 the low byte is the whole code, above 255 the range check fails. -/
theorem cdT2bRefusesCodesAbove255 : Obligations.CdT2bRefusesCodesAbove255 :=
  ⟨wordRuns_of_row rfl rfl rfl, fun c s =>
    ⟨fun hle => answers_of_succeed (execCdT2b_of_le c s hle) ((zext32_lowByte_of_le hle).trans (zext32_eq_ofNat c)),
      fun hgt => failsWith_of_raiseError (execCdT2b_of_gt c s hgt) rfl⟩⟩

/-- Settles O35: CD.B2T has no check, and its result is the byte zero-extended. -/
theorem cdB2tGivesTheCharacterCode : Obligations.CdB2tGivesTheCharacterCode :=
  ⟨wordRuns_of_row rfl rfl rfl, fun b _ =>
    answers_of_succeed rfl ((zext32_setWidth_byte b).trans (zext32_eq_ofNat b))⟩

/-- The model's digit is the one at its place in the statements' row of sixteen (R208). -/
theorem hexDigit_eq_hexCode : ∀ d : Half, hexDigit d = hexCode d := by decide

/-- Settles O38: the halves of the byte choose its digits. -/
theorem cdHexGivesTwoUppercaseDigits : Obligations.CdHexGivesTwoUppercaseDigits := by
  refine ⟨wordRuns_of_row rfl rfl rfl, fun b _ => answers_of_succeed rfl ?_⟩
  rw [hexDigit_eq_hexCode, hexDigit_eq_hexCode]
  rfl

end Sys2Proof.Machine
end

section
/-! PROOFS. The Base64 alphabet and its inverse, and the groups that do not decode (spec/43_codec.md R203, R206,
R207). -/

namespace Sys2Proof.Machine

open Sys2Proof.Claims

/-- The model's character of a sextet is the one at its place in the alphabet (R203). -/
theorem enc64_eq_code64 : enc64 = code64 := funext (by decide)

theorem dec64_enc64 : ∀ v : BitVec 6, dec64 (enc64 v) = some v := by decide

@[simp] theorem dec64_code64 (v : BitVec 6) : dec64 (code64 v) = some v := by rw [← enc64_eq_code64, dec64_enc64]

/-- Over all 256 codes, one that decodes is the character of its sextet. -/
theorem dec64_all_enc64 : ∀ c : Byte, (dec64 c).all (fun v => enc64 v == c) = true := by decide

theorem code64_of_dec64 {c : Byte} {v : BitVec 6} (h : dec64 c = some v) : code64 v = c := by
  have hall := dec64_all_enc64 c
  rw [h, enc64_eq_code64] at hall
  exact beq_iff_eq.1 hall

@[simp] theorem dec64_equalsSign : dec64 equalsSign = none := by decide

/-- The pad character is outside the alphabet (R203). -/
@[simp] theorem code64_ne_equalsSign (v : BitVec 6) : code64 v ≠ equalsSign := by
  intro h
  have hdec := dec64_code64 v
  rw [h, dec64_equalsSign] at hdec
  cases hdec

/-- The codes without a sextet are those outside the alphabet. -/
theorem dec64_eq_none_iff (c : Byte) : dec64 c = none ↔ ¬ InAlphabet c := by
  constructor
  · rintro hnone ⟨v, rfl⟩
    rw [dec64_code64] at hnone
    cases hnone
  · intro hout
    cases hdec : dec64 c with
    | none => rfl
    | some v => exact absurd ⟨v, (code64_of_dec64 hdec).symm⟩ hout

theorem padChar_eq_equalsSign : padChar = equalsSign := by decide

/-- The groups that do not decode are those R207 calls malformed. -/
theorem b64dGroup_eq_none_iff (c0 c1 c2 c3 : Byte) : b64dGroup c0 c1 c2 c3 = none ↔ Malformed c0 c1 c2 c3 := by
  unfold b64dGroup Malformed
  simp only [padChar_eq_equalsSign, ← dec64_eq_none_iff]
  cases dec64 c0 with
  | none => simp
  | some v0 =>
    cases dec64 c1 with
    | none => simp
    | some v1 =>
      by_cases h2 : c2 = equalsSign
      · by_cases h3 : c3 = equalsSign <;> simp [h2, h3]
      · cases dec64 c2 with
        | none => simp [h2]
        | some v2 => by_cases h3 : c3 = equalsSign <;> cases dec64 c3 <;> simp [h2, h3]

end Sys2Proof.Machine
end

section
/-! PROOFS. Base64 groups: three bytes and four sextets of the same 24 bits (spec/43_codec.md R204 to R207). -/

namespace Sys2Proof.Machine

open Sys2Proof.Claims

/-- Bytes put side by side as one group are taken back from their places (spec/20_memory.md R66). -/
@[simp] theorem packThree_b0 (x y z : Byte) : (packThree x y z).extractLsb' 16 8 = x := by
  rw [packThree, BitVec.extractLsb'_append_eq_of_le (by decide)]
  exact BitVec.extractLsb'_append_eq_left

@[simp] theorem packThree_b1 (x y z : Byte) : (packThree x y z).extractLsb' 8 8 = y := by
  rw [packThree, BitVec.extractLsb'_append_eq_of_le (by decide)]
  exact BitVec.extractLsb'_append_eq_right

@[simp] theorem packThree_b2 (x y z : Byte) : (packThree x y z).extractLsb' 0 8 = z :=
  BitVec.extractLsb'_append_eq_right

@[simp] theorem packFour_c0 (x y z u : Byte) : (packFour x y z u).extractLsb' 24 8 = x := by
  rw [packFour, BitVec.extractLsb'_append_eq_of_le (by decide)]
  exact packThree_b0 x y z

@[simp] theorem packFour_c1 (x y z u : Byte) : (packFour x y z u).extractLsb' 16 8 = y := by
  rw [packFour, BitVec.extractLsb'_append_eq_of_le (by decide)]
  exact packThree_b1 x y z

@[simp] theorem packFour_c2 (x y z u : Byte) : (packFour x y z u).extractLsb' 8 8 = z := by
  rw [packFour, BitVec.extractLsb'_append_eq_of_le (by decide)]
  exact packThree_b2 x y z

@[simp] theorem packFour_c3 (x y z u : Byte) : (packFour x y z u).extractLsb' 0 8 = u :=
  BitVec.extractLsb'_append_eq_right

/-- A group's 24 bits are its three bytes. -/
theorem packThree_extractLsb' (w : BitVec 24) :
    packThree (w.extractLsb' 16 8) (w.extractLsb' 8 8) (w.extractLsb' 0 8) = w := by
  have htop : w.extractLsb' 16 8 ++ w.extractLsb' 8 8 = w.extractLsb' 8 16 :=
    BitVec.extractLsb'_append_extractLsb'_eq_extractLsb' rfl
  rw [packThree, htop]
  exact append_extractLsb' (n := 16) (m := 8) w

/-- A group's 24 bits are its four sextets. -/
theorem sextets_extractLsb' (w : BitVec 24) :
    w.extractLsb' 18 6 ++ w.extractLsb' 12 6 ++ w.extractLsb' 6 6 ++ w.extractLsb' 0 6 = w := by
  have htwo : w.extractLsb' 18 6 ++ w.extractLsb' 12 6 = w.extractLsb' 12 12 :=
    BitVec.extractLsb'_append_extractLsb'_eq_extractLsb' rfl
  have hthree : w.extractLsb' 12 12 ++ w.extractLsb' 6 6 = w.extractLsb' 6 18 :=
    BitVec.extractLsb'_append_extractLsb'_eq_extractLsb' rfl
  rw [htwo, hthree]
  exact append_extractLsb' (n := 18) (m := 6) w

/-- Zero extension does not see how fields are grouped. -/
theorem zext32_append_assoc {n m k : Nat} (x : BitVec n) (y : BitVec m) (z : BitVec k) :
    zext32 (x ++ (y ++ z)) = zext32 (x ++ y ++ z) := by
  rw [BitVec.append_assoc, zext32, zext32, BitVec.setWidth_cast]

/-- A count before three bytes is the four fields in a row. -/
theorem zext32_append_packThree (cnt : BitVec 2) (b0 b1 b2 : Byte) :
    zext32 (cnt ++ packThree b0 b1 b2) = zext32 (cnt ++ b0 ++ b1 ++ b2) := by
  have hinner : cnt ++ (b0 ++ b1) = cnt ++ b0 ++ b1 := BitVec.append_assoc.symm
  rw [packThree, zext32_append_assoc, hinner]

section

variable (cnt : BitVec 2) (b0 b1 b2 : Byte)

/-- The fields of a CD.B64D result are taken back from their places (R207). -/
@[simp] theorem groupWord_count : (zext32 (cnt ++ packThree b0 b1 b2)).extractLsb' 24 2 = cnt :=
  Laws.field_append_high cnt (packThree b0 b1 b2) (by decide)

/-- Below the count a CD.B64D result is its three bytes. -/
theorem groupWord_inner {lo : Nat} (h : lo + 8 ≤ 24) :
    (zext32 (cnt ++ packThree b0 b1 b2)).extractLsb' lo 8 = (packThree b0 b1 b2).extractLsb' lo 8 :=
  (Laws.field_append_inner cnt (packThree b0 b1 b2) h (by decide)).trans (BitVec.extractLsb'_setWidth_of_le (by omega))

@[simp] theorem groupWord_b0 : (zext32 (cnt ++ packThree b0 b1 b2)).extractLsb' 16 8 = b0 := by
  rw [groupWord_inner cnt b0 b1 b2 (by decide), packThree_b0]

@[simp] theorem groupWord_b1 : (zext32 (cnt ++ packThree b0 b1 b2)).extractLsb' 8 8 = b1 := by
  rw [groupWord_inner cnt b0 b1 b2 (by decide), packThree_b1]

@[simp] theorem groupWord_b2 : (zext32 (cnt ++ packThree b0 b1 b2)).extractLsb' 0 8 = b2 := by
  rw [groupWord_inner cnt b0 b1 b2 (by decide), packThree_b2]

end

/-- The count decides how many bytes are kept (R206). -/
theorem keepBytes_of_bytes {v0 v1 v2 v3 : BitVec 6} {b0 b1 b2 : Byte} (cnt : BitVec 2)
    (hw : v0 ++ v1 ++ v2 ++ v3 = packThree b0 b1 b2) :
    keepBytes cnt v0 v1 v2 v3 =
      { cnt := cnt, b0 := b0, b1 := if 2 ≤ cnt.toNat then b1 else 0#8, b2 := if cnt = 3#2 then b2 else 0#8 } := by
  simp [keepBytes, hw]

section

variable {v0 v1 v2 v3 : BitVec 6} {b0 b1 b2 : Byte}

/-- Four characters of the alphabet decode to three bytes (R206). -/
theorem b64dGroup_noPad (hw : v0 ++ v1 ++ v2 ++ v3 = packThree b0 b1 b2) :
    b64dGroup (code64 v0) (code64 v1) (code64 v2) (code64 v3) = some ⟨3#2, b0, b1, b2⟩ := by
  simp [b64dGroup, padChar_eq_equalsSign, keepBytes_of_bytes 3#2 hw]

/-- Three characters and a pad decode to two bytes, whatever bits stand beyond them (R206). -/
theorem b64dGroup_onePad (hw : v0 ++ v1 ++ v2 ++ 0#6 = packThree b0 b1 b2) :
    b64dGroup (code64 v0) (code64 v1) (code64 v2) equalsSign = some ⟨2#2, b0, b1, 0#8⟩ := by
  simp [b64dGroup, padChar_eq_equalsSign, keepBytes_of_bytes 2#2 hw]

/-- Two characters and two pads decode to one byte, whatever bits stand beyond it (R206). -/
theorem b64dGroup_twoPads (hw : v0 ++ v1 ++ 0#6 ++ 0#6 = packThree b0 b1 b2) :
    b64dGroup (code64 v0) (code64 v1) equalsSign equalsSign = some ⟨1#2, b0, 0#8, 0#8⟩ := by
  simp [b64dGroup, padChar_eq_equalsSign, keepBytes_of_bytes 1#2 hw]

/-- Three characters and a pad keep the first 16 of their 18 bits (R206). -/
theorem packThree_of_onePad (v : BitVec 18) :
    packThree ((v ++ 0#6).extractLsb' 16 8) ((v ++ 0#6).extractLsb' 8 8) 0#8 = v.extractLsb' 2 16 ++ 0#8 := by
  have hkept : (v ++ 0#6).extractLsb' 16 8 ++ (v ++ 0#6).extractLsb' 8 8 = (v ++ 0#6).extractLsb' 8 16 :=
    BitVec.extractLsb'_append_extractLsb'_eq_extractLsb' rfl
  rw [packThree, hkept, BitVec.extractLsb'_append_eq_of_le (by decide)]

/-- Two characters and two pads keep the first 8 of their 12 bits (R206). -/
theorem packThree_of_twoPads (v : BitVec 12) :
    packThree ((v ++ 0#6 ++ 0#6).extractLsb' 16 8) 0#8 0#8 = v.extractLsb' 4 8 ++ 0#16 := by
  rw [packThree, BitVec.extractLsb'_append_eq_of_le (by decide), BitVec.extractLsb'_append_eq_of_le (by decide),
    BitVec.append_assoc]
  rfl

end

/-- Settles O37: each padded form keeps the first bytes of its 24 bits, and `b64dGroup_eq_none_iff` says which groups
fail. -/
theorem cdB64dDecodesOneGroup : Obligations.CdB64dDecodesOneGroup := by
  refine ⟨wordRuns_of_row rfl rfl rfl, fun v0 v1 v2 v3 s => ⟨?_, ?_, ?_⟩, fun c0 c1 c2 c3 s hbad => ?_⟩
  · have hg := b64dGroup_noPad (packThree_extractLsb' (v0 ++ v1 ++ v2 ++ v3)).symm
    refine answers_of_succeed (execCdB64d_of_some _ _ _ _ s _ hg) ?_
    rw [packThree_extractLsb', zext32]
  · have hg := b64dGroup_onePad (packThree_extractLsb' (v0 ++ v1 ++ v2 ++ 0#6)).symm
    refine answers_of_succeed (execCdB64d_of_some _ _ _ _ s _ hg) ?_
    rw [packThree_of_onePad, zext32_append_assoc, zext32]
  · have hg := b64dGroup_twoPads (packThree_extractLsb' (v0 ++ v1 ++ 0#6 ++ 0#6)).symm
    refine answers_of_succeed (execCdB64d_of_some _ _ _ _ s _ hg) ?_
    rw [packThree_of_twoPads, zext32_append_assoc, zext32]
  · have hnone := (b64dGroup_eq_none_iff c0 c1 c2 c3).2 hbad
    exact failsWith_of_raiseError (execCdB64d_of_none c0 c1 c2 c3 s hnone) rfl

/-- A byte beyond the count of a group ends CD.B64E in RESERVED_NONZERO (R205). -/
theorem execCdB64e_of_tail {cnt : BitVec 2} {b1 b2 : Byte} (b0 : Byte) (s : State) (hcnt : cnt ≠ 0#2)
    (htail : tailNonzero cnt b1 b2 = true) : execCdB64e cnt b0 b1 b2 s = .next (raiseError .reservedNonzero s) := by
  simp [execCdB64e, hcnt, htail]

@[simp] theorem tailNonzero_one (b1 b2 : Byte) : tailNonzero 1#2 b1 b2 = (b1 != 0#8 || b2 != 0#8) := by
  simp [tailNonzero]

@[simp] theorem tailNonzero_two (b1 b2 : Byte) : tailNonzero 2#2 b1 b2 = (b2 != 0#8) := by
  simp [tailNonzero]

@[simp] theorem tailNonzero_three (b1 b2 : Byte) : tailNonzero 3#2 b1 b2 = false := by
  simp [tailNonzero]

/-- Three bytes encode to the characters of all four sextets (R204). -/
theorem b64eGroup_three (b0 b1 b2 : Byte) :
    b64eGroup 3#2 b0 b1 b2 =
      packFour (code64 ((packThree b0 b1 b2).extractLsb' 18 6)) (code64 ((packThree b0 b1 b2).extractLsb' 12 6))
        (code64 ((packThree b0 b1 b2).extractLsb' 6 6)) (code64 ((packThree b0 b1 b2).extractLsb' 0 6)) := by
  rw [← enc64_eq_code64]
  rfl

/-- Two bytes encode to three characters and a pad (R204). -/
theorem b64eGroup_two (b0 b1 b2 : Byte) :
    b64eGroup 2#2 b0 b1 b2 =
      packFour (code64 ((packThree b0 b1 b2).extractLsb' 18 6)) (code64 ((packThree b0 b1 b2).extractLsb' 12 6))
        (code64 ((packThree b0 b1 b2).extractLsb' 6 6)) equalsSign := by
  rw [← enc64_eq_code64, ← padChar_eq_equalsSign]
  rfl

/-- One byte encodes to two characters and two pads (R204). -/
theorem b64eGroup_one (b0 b1 b2 : Byte) :
    b64eGroup 1#2 b0 b1 b2 =
      packFour (code64 ((packThree b0 b1 b2).extractLsb' 18 6)) (code64 ((packThree b0 b1 b2).extractLsb' 12 6))
        equalsSign equalsSign := by
  rw [← enc64_eq_code64, ← padChar_eq_equalsSign]
  rfl

/-- Settles O36: `b64eGroup` by count; the count is checked first, then the bytes beyond it. -/
theorem cdB64eEncodesOneGroup : Obligations.CdB64eEncodesOneGroup := by
  refine ⟨wordRuns_of_row rfl rfl rfl, fun b0 b1 b2 s => ⟨?_, ?_, ?_, ?_, ?_, ?_⟩⟩
  · exact answers_of_succeed (execCdB64e_of_ok 3#2 b0 b1 b2 s (by decide) (by simp)) (b64eGroup_three b0 b1 b2)
  · intro h2
    exact answers_of_succeed (execCdB64e_of_ok 2#2 b0 b1 b2 s (by decide) (by simp [h2])) (b64eGroup_two b0 b1 b2)
  · intro h1 h2
    exact answers_of_succeed (execCdB64e_of_ok 1#2 b0 b1 b2 s (by decide) (by simp [h1, h2])) (b64eGroup_one b0 b1 b2)
  · exact failsWith_of_raiseError rfl rfl
  · intro h2
    exact failsWith_of_raiseError (execCdB64e_of_tail (cnt := 2#2) b0 s (by decide) (by simp [h2])) rfl
  · intro h12
    exact failsWith_of_raiseError (execCdB64e_of_tail (cnt := 1#2) b0 s (by decide) (by simpa using h12)) rfl

end Sys2Proof.Machine
end

section
/-! PROOFS. The codec commands undo each other (spec/43_codec.md R210). -/

namespace Sys2Proof.Machine

open Sys2Proof.Claims

theorem count_cases : ∀ cnt : BitVec 2, cnt = 0#2 ∨ cnt = 1#2 ∨ cnt = 2#2 ∨ cnt = 3#2 := by decide

/-- The limits of format G3 are the checks of CD.B64E (R205; spec/30_encoding.md R82). -/
theorem wellFormed_cdB64e_iff (cnt : BitVec 2) (b0 b1 b2 : Byte) :
    WellFormed (.cdB64e cnt b0 b1 b2) = true ↔ cnt ≠ 0#2 ∧ tailNonzero cnt b1 b2 = false := by
  obtain rfl | rfl | rfl | rfl := count_cases cnt <;> simp [WellFormed, groupCountOk, groupTailOk]

/-- The sextets of a group whose last byte is 0 end in 0. -/
theorem sextets_packThree_zero (b0 b1 : Byte) :
    (packThree b0 b1 0#8).extractLsb' 18 6 ++ (packThree b0 b1 0#8).extractLsb' 12 6 ++
      (packThree b0 b1 0#8).extractLsb' 6 6 ++ 0#6 = packThree b0 b1 0#8 := by
  have hlast : (packThree b0 b1 0#8).extractLsb' 0 6 = 0#6 := BitVec.extractLsb'_append_eq_of_add_le (by decide)
  rw [← hlast, sextets_extractLsb']

/-- The sextets of a group whose last two bytes are 0 end in two that are 0. -/
theorem sextets_packThree_zero_zero (b0 : Byte) :
    (packThree b0 0#8 0#8).extractLsb' 18 6 ++ (packThree b0 0#8 0#8).extractLsb' 12 6 ++ 0#6 ++ 0#6 =
      packThree b0 0#8 0#8 := by
  have hthird : (packThree b0 0#8 0#8).extractLsb' 6 6 = 0#6 := by
    rw [packThree, BitVec.append_assoc]
    exact BitVec.extractLsb'_append_eq_of_add_le (xlo := 0#8 ++ 0#8) (by decide)
  have h := sextets_packThree_zero b0 0#8
  rwa [hthird] at h

/-- The characters of a well-formed group decode to the group (R210 (c)). -/
theorem b64dGroup_b64eGroup {cnt : BitVec 2} {b1 b2 : Byte} (b0 : Byte) (hcnt : cnt ≠ 0#2)
    (htail : tailNonzero cnt b1 b2 = false) :
    b64dGroup ((b64eGroup cnt b0 b1 b2).extractLsb' 24 8) ((b64eGroup cnt b0 b1 b2).extractLsb' 16 8)
      ((b64eGroup cnt b0 b1 b2).extractLsb' 8 8) ((b64eGroup cnt b0 b1 b2).extractLsb' 0 8) =
        some ⟨cnt, b0, b1, b2⟩ := by
  obtain rfl | rfl | rfl | rfl := count_cases cnt
  · exact absurd rfl hcnt
  · obtain ⟨rfl, rfl⟩ : b1 = 0#8 ∧ b2 = 0#8 := by simpa using htail
    rw [b64eGroup_one, packFour_c0, packFour_c1, packFour_c2, packFour_c3]
    exact b64dGroup_twoPads (sextets_packThree_zero_zero b0)
  · obtain rfl : b2 = 0#8 := by simpa using htail
    rw [b64eGroup_two, packFour_c0, packFour_c1, packFour_c2, packFour_c3]
    exact b64dGroup_onePad (sextets_packThree_zero b0 b1)
  · rw [b64eGroup_three, packFour_c0, packFour_c1, packFour_c2, packFour_c3]
    exact b64dGroup_noPad (sextets_extractLsb' (packThree b0 b1 b2))

/-- A byte's character code is up to 255. -/
theorem toNat_setWidth_byte_le (b : Byte) : (b.setWidth 16 : CharCode).toNat ≤ 255 := by
  rw [BitVec.toNat_setWidth]
  have := b.isLt
  omega

theorem afterCommand_cdT2b_of_le {c : CharCode} (h : c.toNat ≤ 255) (s : State) :
    afterCommand (.cdT2b c) s = succeed (zext32 c) s := by
  rw [← zext32_lowByte_of_le h]
  exact afterCommand_of_next (execCdT2b_of_le c s h)

theorem afterCommand_cdB2t (b : Byte) (s : State) :
    afterCommand (.cdB2t b) s = succeed (zext32 (b.setWidth 16)) s := rfl

theorem afterCommand_cdB64e_of_ok {cnt : BitVec 2} {b1 b2 : Byte} (b0 : Byte) (hcnt : cnt ≠ 0#2)
    (htail : tailNonzero cnt b1 b2 = false) (s : State) :
    afterCommand (.cdB64e cnt b0 b1 b2) s = succeed (b64eGroup cnt b0 b1 b2) s :=
  afterCommand_of_next (execCdB64e_of_ok cnt b0 b1 b2 s hcnt htail)

theorem afterCommand_cdB64d_of_some {c0 c1 c2 c3 : Byte} {g : ByteGroup} (hg : b64dGroup c0 c1 c2 c3 = some g)
    (s : State) :
    afterCommand (.cdB64d c0 c1 c2 c3) s = succeed (zext32 (g.cnt ++ packThree g.b0 g.b1 g.b2)) s :=
  afterCommand_of_next (execCdB64d_of_some c0 c1 c2 c3 s g hg)

/-- `QR==` decodes to one byte: the four bits of `R` beyond it are discarded (R210 (d)). -/
theorem b64dGroup_QR : b64dGroup 0x51#8 0x52#8 0x3D#8 0x3D#8 = some ⟨1#2, 0x41#8, 0#8, 0#8⟩ := by decide

/-- Settles O39: the second command takes its operands from the first one's RES, and the two maps cancel; on `QR==`
the discarded bits do not come back. -/
theorem codecCommandsRoundTrip : Obligations.CodecCommandsRoundTrip := by
  refine ⟨fun c s hle => ?_, fun b s => ?_, fun cnt b0 b1 b2 s hwf => ?_, fun s => ?_⟩
  · intro t
    have ht : t.res = zext32 c := congrArg State.res (afterCommand_cdT2b_of_le hle s)
    have hlow : t.res.extractLsb' 0 8 = c.extractLsb' 0 8 := by
      rw [ht, ← zext32_lowByte_of_le hle, extractLsb'_zext32 _ (by decide)]
    rw [hlow, afterCommand_cdB2t, succeed_res, setWidth_lowByte_of_le hle, zext32]
  · intro t
    have ht : t.res.extractLsb' 0 16 = b.setWidth 16 := extractLsb'_zext32 _ (by decide)
    rw [ht, afterCommand_cdT2b_of_le (toNat_setWidth_byte_le b), succeed_res, zext32_setWidth_byte, zext32]
  · intro t
    obtain ⟨hcnt, htail⟩ := (wellFormed_cdB64e_iff cnt b0 b1 b2).1 hwf
    have ht : t.res = b64eGroup cnt b0 b1 b2 := congrArg State.res (afterCommand_cdB64e_of_ok b0 hcnt htail s)
    rw [ht, afterCommand_cdB64d_of_some (b64dGroup_b64eGroup b0 hcnt htail), succeed_res,
      zext32_append_packThree, zext32]
  · intro t
    have ht : t.res = zext32 (1#2 ++ packThree 0x41#8 0#8 0#8) :=
      congrArg State.res (afterCommand_cdB64d_of_some b64dGroup_QR s)
    rw [ht, groupWord_count, groupWord_b0, groupWord_b1, groupWord_b2,
      afterCommand_cdB64e_of_ok 0x41#8 (by decide) (by decide), succeed_res]
    decide

end Sys2Proof.Machine
end

section
/-! PROOFS. The control commands: CTL.NOP is a success with result 0, CTL.CLR is `clearRegs`
(spec/44_control.md R240, R241). -/

namespace Sys2Proof.Machine

open Sys2Proof.Claims

theorem exec_ctlNop (s : State) : exec .ctlNop s = .next (succeed 0#32 s) := rfl

theorem exec_ctlClr (s : State) : exec .ctlClr s = .next (clearRegs s) := rfl

/-- Settles O44: every bit of ARG is reserved in the row of CTL.NOP, and the command is a success with result 0. -/
theorem ctlNopWritesZero : Obligations.CtlNopWritesZero :=
  ⟨wordRuns_of_row rfl rfl rfl, fun s => answers_of_succeed (exec_ctlNop s) rfl⟩

/-- Settles O45: CTL.CLR clears as reset does, so `zeroRegs_clearRegs` gives the registers, and the frame is the one
every command keeps. -/
theorem ctlClrZeroesEveryRegister : Obligations.CtlClrZeroesEveryRegister :=
  ⟨wordRuns_of_row rfl rfl rfl, fun s =>
    ⟨clearRegs s, exec_ctlClr s, zeroRegs_clearRegs s, (effect_of_exec (exec_ctlClr s)).samePorts⟩⟩

end Sys2Proof.Machine
end

section
/-! PROOFS. STATUS.ERR after a command, from the command's own checks, and the one code that R253 names for a word
(spec/60_exceptions.md R252, R253). -/

namespace Sys2Proof.Machine

open Sys2Proof.Claims

/-- BC.ENC and BC.DEC check KV and nothing else (R253). -/
theorem cryptLoaded_err (b rk1 rk2 : Byte) (s : State) :
    (cryptLoaded b rk1 rk2 s).status.err = if s.status.kv then 0#4 else 3#4 := by
  unfold cryptLoaded
  split <;> rfl

/-- ERR after a command is ERR in the state the command leaves. -/
theorem afterCommand_err_of_next {i : Instr} {s t : State} {code : BitVec 4} (h : exec i s = .next t)
    (hcode : t.status.err = code) : (afterCommand i s).status.err = code := by
  rwa [afterCommand_of_next h]

/-- CD.T2B checks the range of its code (R253). -/
theorem afterCommand_cdT2b_err (c : CharCode) (s : State) :
    (afterCommand (.cdT2b c) s).status.err = if c.toNat ≤ 255 then 0#4 else 4#4 := by
  split
  next hle => exact afterCommand_err_of_next (execCdT2b_of_le c s hle) rfl
  next hgt => exact afterCommand_err_of_next (execCdT2b_of_gt c s (Nat.lt_of_not_le hgt)) rfl

/-- The bytes that CD.B64E finds beyond the count are those of the statements. -/
theorem tailNonzero_iff_beyondCount (cnt : BitVec 2) (b1 b2 : Byte) :
    tailNonzero cnt b1 b2 = true ↔ BeyondCount cnt b1 b2 := by
  simp [tailNonzero, BeyondCount]

/-- CD.B64E checks the count first (R253). -/
theorem afterCommand_cdB64e_err_of_zero (b0 b1 b2 : Byte) (s : State) :
    (afterCommand (.cdB64e 0#2 b0 b1 b2) s).status.err = 6#4 := rfl

/-- CD.B64E checks the bytes beyond a count that is not 0 (R253). -/
theorem afterCommand_cdB64e_err_of_beyond {cnt : BitVec 2} {b1 b2 : Byte} (b0 : Byte) (s : State) (hcnt : cnt ≠ 0#2)
    (hbeyond : BeyondCount cnt b1 b2) : (afterCommand (.cdB64e cnt b0 b1 b2) s).status.err = 2#4 :=
  have htail := (tailNonzero_iff_beyondCount cnt b1 b2).2 hbeyond
  afterCommand_err_of_next (execCdB64e_of_tail b0 s hcnt htail) rfl

/-- CD.B64E makes no other check (R253). -/
theorem afterCommand_cdB64e_err_of_not_beyond {cnt : BitVec 2} {b1 b2 : Byte} (b0 : Byte) (s : State) (hcnt : cnt ≠ 0#2)
    (hbeyond : ¬ BeyondCount cnt b1 b2) : (afterCommand (.cdB64e cnt b0 b1 b2) s).status.err = 0#4 := by
  rw [← tailNonzero_iff_beyondCount, Bool.not_eq_true] at hbeyond
  exact afterCommand_err_of_next (execCdB64e_of_ok cnt b0 b1 b2 s hcnt hbeyond) rfl

/-- CD.B64D fails on a malformed group (R253). -/
theorem afterCommand_cdB64d_err_of_malformed {c0 c1 c2 c3 : Byte} (s : State) (hbad : Malformed c0 c1 c2 c3) :
    (afterCommand (.cdB64d c0 c1 c2 c3) s).status.err = 5#4 :=
  have hnone := (b64dGroup_eq_none_iff c0 c1 c2 c3).2 hbad
  afterCommand_err_of_next (execCdB64d_of_none c0 c1 c2 c3 s hnone) rfl

/-- CD.B64D fails on no other group (R253). -/
theorem afterCommand_cdB64d_err_of_not_malformed {c0 c1 c2 c3 : Byte} (s : State) (hgood : ¬ Malformed c0 c1 c2 c3) :
    (afterCommand (.cdB64d c0 c1 c2 c3) s).status.err = 0#4 := by
  rw [← b64dGroup_eq_none_iff] at hgood
  obtain ⟨g, hg⟩ := Option.ne_none_iff_exists'.1 hgood
  exact afterCommand_err_of_next (execCdB64d_of_some c0 c1 c2 c3 s g hg) rfl

/-- Only five commands have checks of their own: every other one succeeds (R253). -/
theorem afterCommand_err_of_unchecked {i : Instr} (h : opByte i ∉ [0x42#8, 0x33#8, 0x34#8, 0x40#8, 0x43#8]) (s : State) :
    (afterCommand i s).status.err = 0#4 := by
  cases i with
  | cdB64e | bcEnc | bcDec | cdT2b | cdB64d => simp [opByte] at h
  | _ => rfl

/-- A word that decodes leaves the state its command leaves. -/
theorem afterWord_of_ok {w : CmdWord} {i : Instr} (h : decode w = .ok i) (s : State) :
    afterWord w s = afterCommand i s := by
  rw [afterWord, runWord_of_ok h, afterCommand]

/-- A word with this OP and no reserved bit set leaves the state its row's command leaves. -/
theorem afterWord_of_wordRuns {op : Byte} {command : Word → Instr} {w : CmdWord}
    (runs : WordRuns op (reservedMask op) command) (hop : opOf w = op) (hzero : argOf w &&& reservedMask (opOf w) = 0#32)
    (s : State) : afterWord w s = afterCommand (command (argOf w)) s := by
  subst hop
  have hrun := (runs (argOf w) s).2 hzero
  rw [opOf_append_argOf] at hrun
  rw [afterWord, hrun, afterCommand]

/-- Past the two checks of the decoder, ERR is what the command's own checks report (R253, item 3). -/
theorem ownChecksReport_afterWord {w : CmdWord} (hdef : ¬ Undefined (opOf w))
    (hzero : argOf w &&& reservedMask (opOf w) = 0#32) (s : State) :
    OwnChecksReport (opOf w) (argOf w) s (afterWord w s).status.err := by
  refine ⟨fun hop hcnt => ?_, fun hop hcnt hbeyond => ?_, fun hop hcnt hbeyond => ?_, fun hop => ?_, fun hop => ?_,
    fun hop hbad => ?_, fun hop hgood => ?_, fun hop => ?_⟩
  · rw [afterWord_of_wordRuns cdB64eEncodesOneGroup.1 hop hzero, hcnt]
    exact afterCommand_cdB64e_err_of_zero _ _ _ s
  · rw [afterWord_of_wordRuns cdB64eEncodesOneGroup.1 hop hzero]
    exact afterCommand_cdB64e_err_of_beyond _ s hcnt hbeyond
  · rw [afterWord_of_wordRuns cdB64eEncodesOneGroup.1 hop hzero]
    exact afterCommand_cdB64e_err_of_not_beyond _ s hcnt hbeyond
  · obtain hop | hop := hop
    · rw [afterWord_of_wordRuns bcEncEnciphersUnderTheLoadedKey.1 hop hzero]
      exact cryptLoaded_err _ _ _ s
    · rw [afterWord_of_wordRuns bcDecDeciphersUnderTheLoadedKey.1 hop hzero]
      exact cryptLoaded_err _ _ _ s
  · rw [afterWord_of_wordRuns cdT2bRefusesCodesAbove255.1 hop hzero]
    exact afterCommand_cdT2b_err _ s
  · rw [afterWord_of_wordRuns cdB64dDecodesOneGroup.1 hop hzero]
    exact afterCommand_cdB64d_err_of_malformed s hbad
  · rw [afterWord_of_wordRuns cdB64dDecodesOneGroup.1 hop hzero]
    exact afterCommand_cdB64d_err_of_not_malformed s hgood
  · obtain ⟨i, hi, hd⟩ := decode_of_defined hdef
    rw [afterWord_of_ok (hd.trans (if_pos hzero))]
    exact afterCommand_err_of_unchecked (hi ▸ hop) s

/-- Settles O11: the decoder makes its two checks in the order of R253, and `ownChecksReport_afterWord` says what
follows them. -/
theorem theFirstFailingCheckIsReported : Obligations.TheFirstFailingCheckIsReported := by
  intro w s t h
  refine ⟨fun hundef => ?_, fun hdef hbits => ?_, fun hdef hzero => ?_⟩
  · rw [runWord_of_error (decode_of_undefined hundef)] at h
    cases h
    rfl
  · obtain ⟨i, -, hd⟩ := decode_of_defined hdef
    rw [runWord_of_error (hd.trans (if_neg hbits))] at h
    cases h
    rfl
  · have hown := ownChecksReport_afterWord hdef hzero s
    rwa [afterWord_of_next h] at hown

/-- A command's own checks report at most one code. -/
theorem ownChecksReport_determines (op : Byte) (arg : Word) (s : State) :
    ∃ c, ∀ code, OwnChecksReport op arg s code → code = c := by
  by_cases hB64e : op = 0x42#8
  · by_cases hcnt : arg.extractLsb' 24 2 = 0#2
    · exact ⟨_, fun _ ⟨badCount, _⟩ => badCount hB64e hcnt⟩
    · by_cases hbeyond : BeyondCount (arg.extractLsb' 24 2) (arg.extractLsb' 8 8) (arg.extractLsb' 0 8)
      · exact ⟨_, fun _ ⟨_, beyond, _⟩ => beyond hB64e hcnt hbeyond⟩
      · exact ⟨_, fun _ ⟨_, _, group, _⟩ => group hB64e hcnt hbeyond⟩
  by_cases hcrypt : op = 0x33#8 ∨ op = 0x34#8
  · exact ⟨_, fun _ ⟨_, _, _, key, _⟩ => key hcrypt⟩
  by_cases hT2b : op = 0x40#8
  · exact ⟨_, fun _ ⟨_, _, _, _, range, _⟩ => range hT2b⟩
  by_cases hB64d : op = 0x43#8
  · by_cases hbad : Malformed (arg.extractLsb' 24 8) (arg.extractLsb' 16 8) (arg.extractLsb' 8 8) (arg.extractLsb' 0 8)
    · exact ⟨_, fun _ ⟨_, _, _, _, _, malformed, _⟩ => malformed hB64d hbad⟩
    · exact ⟨_, fun _ ⟨_, _, _, _, _, _, decodes, _⟩ => decodes hB64d hbad⟩
  have hop : op ∉ [0x42#8, 0x33#8, 0x34#8, 0x40#8, 0x43#8] := by
    simp [hB64e, not_or.1 hcrypt, hT2b, hB64d]
  exact ⟨_, fun _ ⟨_, _, _, _, _, _, _, unchecked⟩ => unchecked hop⟩

/-- R253 names at most one code for a word and a state. -/
theorem reports_unique {w : CmdWord} {s : State} {c c' : BitVec 4} (h : Reports w s c) (h' : Reports w s c') : c = c' := by
  obtain ⟨illegal, reserved, own⟩ := h
  obtain ⟨illegal', reserved', own'⟩ := h'
  by_cases hundef : Undefined (opOf w)
  · rw [illegal hundef, illegal' hundef]
  · by_cases hzero : argOf w &&& reservedMask (opOf w) = 0#32
    · obtain ⟨d, hd⟩ := ownChecksReport_determines (opOf w) (argOf w) s
      rw [hd c (own hundef hzero), hd c' (own' hundef hzero)]
    · rw [reserved hundef hzero, reserved' hundef hzero]

/-- A word that leaves an error code has raised that error, before or after it decoded (R252). -/
theorem isError_of_err_ne_zero {w : CmdWord} {s t : State} (h : runWord w s = .next t) (herr : t.status.err ≠ 0#4) :
    IsError t.status.err s t := by
  have raised {e : ErrCode} (he : runWord w s = .next (raiseError e s)) : IsError t.status.err s t := by
    rw [he] at h
    cases h
    exact isError_raiseError e s
  cases hd : decode w with
  | error e => exact raised (runWord_of_error hd s)
  | ok i =>
    have hrun := runWord_of_ok hd s
    obtain ⟨u, hu, hsucc⟩ | ⟨e, raises⟩ := exec_succeeds_or_raises i s
    · have : t = u := Host.Outcome.next.inj (h.symm.trans (hrun.trans hu))
      exact absurd (this ▸ hsucc) herr
    · exact raised (hrun.trans (raises s rfl))

/-- Settles O10: the code in ERR is the one R253 names, by O11, and a word that leaves a code has made the three
writes of `raiseError`. -/
theorem aFailingCommandWritesThreeThings : Obligations.AFailingCommandWritesThreeThings := by
  refine ⟨fun w s code hreports hcode => ?_, fun w s t => isError_of_err_ne_zero⟩
  obtain ⟨t, ht, -⟩ := runWord_effect w s
  obtain rfl := reports_unique hreports (theFirstFailingCheckIsReported w s t ht)
  exact ⟨t, ht, isError_of_err_ne_zero ht hcode⟩

end Sys2Proof.Machine
end

section
/-! PROOFS. The encoder and the decoder undo each other (spec/30_encoding.md R80 to R87). -/

namespace Sys2Proof.Machine

open Sys2Proof.Laws

/-- Every command's own row reads its encoding back (R82, R85). -/
theorem encoding_statement : ∀ i : Instr, Encoding.Statement i
  | .ctlNop => Encoding.ctlNop
  | .ctlClr => Encoding.ctlClr
  | .ksP10 v => Encoding.ksP10 v
  | .ksRot1 v => Encoding.ksRot1 v
  | .ksRot2 v => Encoding.ksRot2 v
  | .ksP8 v => Encoding.ksP8 v
  | .ksLoad key => Encoding.ksLoad key
  | .frEp n => Encoding.frEp n
  | .frXor a b => Encoding.frXor a b
  | .frSbox0 n => Encoding.frSbox0 n
  | .frSbox1 n => Encoding.frSbox1 n
  | .frP4 n => Encoding.frP4 n
  | .frF sk r => Encoding.frF sk r
  | .frFk sk b => Encoding.frFk sk b
  | .bcIp b => Encoding.bcIp b
  | .bcIpinv b => Encoding.bcIpinv b
  | .bcSw b => Encoding.bcSw b
  | .bcEnc b => Encoding.bcEnc b
  | .bcDec b => Encoding.bcDec b
  | .bcEnck key b => Encoding.bcEnck key b
  | .bcDeck key b => Encoding.bcDeck key b
  | .cdT2b c => Encoding.cdT2b c
  | .cdB2t b => Encoding.cdB2t b
  | .cdB64e cnt b0 b1 b2 => Encoding.cdB64e cnt b0 b1 b2
  | .cdB64d c0 c1 c2 c3 => Encoding.cdB64d c0 c1 c2 c3
  | .cdHex b => Encoding.cdHex b

/-- Settles O1: the decoder finds the command's own row, its reserved bits are 0, and the row builds the command. -/
theorem decodingAnEncodedCommandGivesItBack : Obligations.DecodingAnEncodedCommandGivesItBack := by
  intro i
  obtain ⟨r, hrow, hrsv, hbuild⟩ := encoding_statement i
  have hd := decode_of_row (encode i) r (by rwa [encode, opOf_append])
  rw [hd, encode, argOf_append, if_pos hrsv, hbuild]

/-- How many low ARG bits the fields of a format fill (R82). -/
def usedBits : Format → Nat
  | .n => 0
  | .k10 => 10
  | .h4 => 4
  | .b8 => 8
  | .rk => 12
  | .ab => 16
  | .kb => 18
  | .c16 => 16
  | .g3 => 26
  | .c4 => 32

/-- A format's mask reserves every ARG bit that its fields leave (R84). -/
theorem getLsbD_rsv_of_unused (f : Format) : ∀ j : Fin 32, usedBits f ≤ j → (rsv f).getLsbD j = true := by
  cases f <;> decide

/-- An ARG without a reserved bit is its used bits. -/
theorem setWidth_field_of_rsv {f : Format} {arg : Word} (h : arg &&& rsv f = 0#32) :
    (field arg 0 (usedBits f)).setWidth 32 = arg := by
  apply BitVec.eq_of_getLsbD_eq
  intro j hj
  have hand : (arg.getLsbD j && (rsv f).getLsbD j) = false := by rw [← BitVec.getLsbD_and, h, BitVec.getLsbD_zero]
  by_cases hused : j < usedBits f
  · simp [field, hj, hused]
  · rw [getLsbD_rsv_of_unused f ⟨j, hj⟩ (Nat.le_of_not_lt hused), Bool.and_true] at hand
    simp [field, hused, hand]

/-- Two fields side by side are one field. -/
theorem field_append_field (arg : Word) {lo m k : Nat} (n : Nat) (h : k = lo + m) :
    field arg k n ++ field arg lo m = field arg lo (n + m) :=
  BitVec.extractLsb'_append_extractLsb'_eq_extractLsb' h

/-- The encoder puts the fields that a row takes back in their places. -/
theorem argWord_build (arg : Word) :
    ∀ r ∈ opRows, argWord (r.build arg) = (field arg 0 (usedBits r.format)).setWidth 32 := by
  have hn : field arg 0 0 = 0#0 := BitVec.of_length_zero
  have hab : field arg 8 8 ++ field arg 0 8 = field arg 0 16 := field_append_field arg 8 rfl
  have hrk : field arg 4 8 ++ field arg 0 4 = field arg 0 12 := field_append_field arg 8 rfl
  have hkb : field arg 8 10 ++ field arg 0 8 = field arg 0 18 := field_append_field arg 10 rfl
  have hg3 : field arg 24 2 ++ field arg 16 8 ++ field arg 8 8 ++ field arg 0 8 = field arg 0 26 := by
    have h1 : field arg 24 2 ++ field arg 16 8 = field arg 16 10 := field_append_field arg 2 rfl
    have h2 : field arg 16 10 ++ field arg 8 8 = field arg 8 18 := field_append_field arg 10 rfl
    rw [h1, h2]
    exact field_append_field arg 18 rfl
  have hc4 : field arg 24 8 ++ field arg 16 8 ++ field arg 8 8 ++ field arg 0 8 = field arg 0 32 := by
    have h1 : field arg 24 8 ++ field arg 16 8 = field arg 16 16 := field_append_field arg 8 rfl
    have h2 : field arg 16 16 ++ field arg 8 8 = field arg 8 24 := field_append_field arg 16 rfl
    rw [h1, h2]
    exact field_append_field arg 24 rfl
  simp [opRows, opRowsKey, opRowsRound, opRowsBlock, opRowsCodec, argWord, usedBits, hn, hab, hrk, hkb, hg3, hc4]

/-- Settles O2: the word's OP and ARG are those of the command its row builds, for no ARG bit is dropped. -/
theorem aDecodedWordIsItsCommandsEncoding : Obligations.ADecodedWordIsItsCommandsEncoding := by
  intro w i h
  by_cases hrow : opRow (opOf w) = none
  · rw [decode_of_no_row w hrow] at h
    cases h
  obtain ⟨r, hr⟩ := Option.ne_none_iff_exists'.1 hrow
  obtain ⟨hmem, hop⟩ := mem_of_opRow hr
  rw [decode_of_row w r hr] at h
  split at h
  · rename_i hrsv
    cases h
    rw [encode, opByte_build _ r hmem, hop, argWord_build _ r hmem, setWidth_field_of_rsv hrsv, opOf_append_argOf]
  · cases h

end Sys2Proof.Machine
end

section
/-! PROOFS. What a step is for each thing the host can do next (spec/20_memory.md R60 to R73;
spec/70_reset_and_hazards.md R280, R285, R291). -/

namespace Sys2Proof.Machine

open Sys2Proof.Claims

/-- Settles O6: `step_of_inFlight`, with the word's command or its decoding error. -/
theorem aStepCompletesTheWordInFlight : Obligations.AStepCompletesTheWordInFlight := by
  intro s w hw hwaits
  have hstep := step_of_inFlight hw hwaits
  constructor
  · intro i hd
    rw [hstep, runWord_of_ok hd]
  · intro e hd
    rw [hstep]
    exact runWord_isError hd { s with inFlight := none }

/-- A word's own number is the word of its 40 bits (R80). -/
theorem tableCmdWord_toNat (w : CmdWord) : tableCmdWord 40 w.toNat = w := by
  rw [tableCmdWord, Nat.mod_eq_of_lt w.isLt, BitVec.ofNat_toNat, BitVec.setWidth_eq]

/-- Settles O7: the placed word is in flight with no host action before it, and it decodes to its command. -/
theorem aPlacedCommandIsTheNextStep : Obligations.APlacedCommandIsTheNextStep := by
  intro s i
  have hplaced : s.withFetchWord 40 (encode i).toNat = placeWord (encode i) s := by
    rw [State.withFetchWord, tableCmdWord_toNat]
  rw [hplaced, step_of_inFlight (placeWord_inFlight _ s) rfl,
    runWord_of_ok (decodingAnEncodedCommandGivesItBack i)]
  rfl

/-- No host action but a transfer puts a word in flight. -/
theorem HostEffect.inFlight {s t : State} {a : HostAction} (h : HostEffect s a t) :
    t.inFlight = none ∨ t.inFlight = s.inFlight ∨
      ∃ w, a = .issue w ∧ t.inFlight = some w ∧ s.rst = false ∧ s.inFlight = none := by
  cases h with
  | accept w low idle => exact .inr (.inr ⟨w, rfl, rfl, low, idle⟩)
  | rise => exact .inl rfl
  | power => exact .inl (by rw [powerUp_eq])
  | fall => exact .inr (.inl (rstFall_inFlight s))
  | withdraw | read | readNow => exact .inr (.inl rfl)

/-- After a step the word in flight is gone or as before, or the host has just transferred it. -/
theorem inFlight_of_step {s t : State} (h : step s = .next t) :
    t.inFlight = none ∨ t.inFlight = s.inFlight ∨
      ∃ w rest, s.host = .issue w :: rest ∧ t.inFlight = some w ∧ s.rst = false ∧ s.inFlight = none := by
  obtain ⟨a, rest, hhost, heff⟩ | ⟨-, w, -, hrun⟩ := step_cases h
  · obtain hnone | hsame | ⟨w, rfl, hw, low, idle⟩ := heff.inFlight
    · exact .inl hnone
    · exact .inr (.inl hsame)
    · exact .inr (.inr ⟨w, rest, hhost, hw, low, idle⟩)
  · obtain ⟨-, -, hfl, -⟩ := samePorts_of_runWord hrun
    exact .inl hfl

/-- Settles O8: an issue transfers when the core is ready, and `inFlight_of_step` says that nothing else does. -/
theorem aWordIsAcceptedExactlyWhenReady : Obligations.AWordIsAcceptedExactlyWhenReady := by
  refine ⟨fun s w rest hhost hrst hidle => ?_, fun s t h hbusy => ?_, fun s t h hnew hsome => ?_,
    fun s w rest hhost => step_of_hostAct hhost rfl⟩
  · exact step_of_hostAct hhost (by simp [hostAct, cmdReady, busy, hrst, hidle])
  · obtain hnone | hsame | ⟨w, rest, -, -, hlow, hidle⟩ := inFlight_of_step h
    · exact .inl hnone
    · exact .inr hsame
    · exact absurd hbusy (by simp [hlow, hidle])
  · obtain hnone | hsame | htransfer := inFlight_of_step h
    · exact absurd hnone hsome
    · exact absurd hsame hnew
    · exact htransfer

/-- Settles O9: every word leaves an effect of its command or its decoding error, and neither touches the ports. -/
theorem everyWordCompletes : Obligations.EveryWordCompletes := by
  intro w s
  obtain ⟨t, ht, -⟩ := runWord_effect w s
  exact ⟨t, ht, samePorts_of_runWord ht⟩

/-- No host action changes a parameter. -/
theorem HostEffect.params {s t : State} {a : HostAction} (h : HostEffect s a t) : t.params = s.params := by
  cases h with
  | fall => exact rstFall_params s
  | power => rw [powerUp_eq]; rfl
  | accept | withdraw | read | readNow | rise => rfl

/-- Settles O54: by the ways a step can go. -/
theorem noStepChangesAParameter : Obligations.NoStepChangesAParameter := by
  intro s t h
  obtain ⟨a, rest, -, heff⟩ | ⟨-, w, -, hrun⟩ := step_cases h
  · exact heff.params
  · obtain ⟨hparams, -⟩ := samePorts_of_runWord hrun
    exact hparams

/-- With nothing in flight and `rst` low a read returns the register (R62, R73). -/
theorem readValue_of_idle {s : State} (a : RAddr) (hidle : s.inFlight = none) (hrst : s.rst = false) :
    readValue a s = readReg s a := by
  simp [readValue, hidle, hrst]

/-- A read that need not wait is the next step (R73). -/
theorem step_of_read {s : State} {a : RAddr} {rest : List HostAction}
    (h : s.host = .readNow a :: rest ∨ s.host = .read a :: rest ∧ s.inFlight = none) :
    step s = .next (sampleRead a { s with host := rest }) := by
  obtain hnow | ⟨hread, hidle⟩ := h
  · exact step_of_hostAct hnow rfl
  · exact step_of_hostAct hread (by simp [hostAct, busy, hidle])

/-- Settles O50: the step is `sampleRead`, which writes the read port alone. -/
theorem readsChangeNoRegister : Obligations.ReadsChangeNoRegister := by
  refine fun s a rest => ⟨fun h => ⟨_, step_of_read h, ⟨rfl, rfl, rfl, rfl, rfl⟩, rfl, rfl, rfl, rfl, rfl⟩,
    fun h hidle hrst => ⟨_, step_of_read (h.imp_right fun hread => ⟨hread, hidle⟩), ?_⟩⟩
  exact readValue_of_idle (s := { s with host := rest }) a hidle hrst

/-- `cmd_ready` is 0 while `rst` is 1 (R280). -/
theorem cmdReady_of_rst {s : State} (h : s.rst = true) : cmdReady s = false := by simp [cmdReady, h]

/-- A power-up clears the registers. -/
theorem powerUp_eq_clearRegs (s : State) : powerUp s = clearRegs { s with rst := false, inFlight := none } :=
  powerUp_eq s

/-- A fall of `rst` clears the registers. -/
theorem rstFall_eq_clearRegs {s : State} (h : s.rst = true) : rstFall s = clearRegs { s with rst := false } :=
  rstFall_of_high s h

/-- Settles O52: the three host actions by name; a fall and a return of power are `clearRegs`. -/
theorem aResetAbandonsTheCommandAndZeroesTheRegisters :
    Obligations.AResetAbandonsTheCommandAndZeroesTheRegisters := by
  refine ⟨fun s rest hhost => ?_, fun s rest hhost hrst hidle => ?_, fun s rest hhost => ?_⟩
  · exact ⟨_, step_of_hostAct hhost rfl, ⟨rfl, rfl, rfl, rfl, rfl⟩, rfl, rfl, cmdReady_of_rst rfl, rfl, rfl⟩
  · have hfall := rstFall_eq_clearRegs (s := { s with host := rest }) hrst
    refine ⟨_, step_of_hostAct hhost (congrArg some hfall), zeroRegs_clearRegs _, rfl, ?_, rfl, rfl⟩
    simp [cmdReady, busy, hidle]
  · have hpower := powerUp_eq_clearRegs { s with host := rest }
    exact ⟨_, step_of_hostAct hhost (congrArg some hpower), zeroRegs_clearRegs _, rfl, rfl, rfl⟩

/-- No host action adds to the host's coming actions. -/
theorem HostEffect.host {s t : State} {a : HostAction} (h : HostEffect s a t) : t.host = s.host := by
  cases h with
  | fall => exact rstFall_host s
  | power => rw [powerUp_eq]; rfl
  | accept | withdraw | read | readNow | rise => rfl

/-- When the host does not wait, the next step is its next action. -/
theorem step_of_not_hostWaits {s : State} (h : hostWaits s = false) :
    ∃ a rest t, s.host = a :: rest ∧ HostEffect { s with host := rest } a t ∧ step s = .next t := by
  cases hhost : s.host with
  | nil => simp [hostWaits, hhost] at h
  | cons a rest =>
    refine ⟨a, rest, ?_⟩
    cases a with
    | issue | read => simp [hostWaits, hhost] at h
    | withdraw w => exact ⟨_, rfl, .withdraw w, step_of_hostAct hhost rfl⟩
    | readNow x => exact ⟨_, rfl, .readNow x, step_of_hostAct hhost rfl⟩
    | raiseRst => exact ⟨_, rfl, .rise, step_of_hostAct hhost rfl⟩
    | dropRst => exact ⟨_, rfl, .fall, step_of_hostAct hhost rfl⟩
    | powerCycle => exact ⟨_, rfl, .power, step_of_hostAct hhost rfl⟩

/-- A step with a word in flight completes it, abandons it, or uses up one of the host's actions. -/
theorem step_progress {s : State} {w : CmdWord} (hw : s.inFlight = some w) :
    ∃ t, step s = .next t ∧
      (t.inFlight = none ∨ t.inFlight = some w ∧ t.host.length + 1 = s.host.length) := by
  cases hwaits : hostWaits s with
  | true =>
    obtain ⟨t, ht, -⟩ := runWord_effect w { s with inFlight := none }
    obtain ⟨-, -, hfl, -⟩ := samePorts_of_runWord ht
    exact ⟨t, (step_of_inFlight hw hwaits).trans ht, .inl hfl⟩
  | false =>
    obtain ⟨a, rest, t, hhost, heff, ht⟩ := step_of_not_hostWaits hwaits
    obtain hnone | hsame | ⟨_, -, -, -, hidle⟩ := heff.inFlight
    · exact ⟨t, ht, .inl hnone⟩
    · exact ⟨t, ht, .inr ⟨hsame.trans hw, by rw [heff.host, hhost, List.length_cons]⟩⟩
    · rw [hw] at hidle
      cases hidle

/-- A run that begins with a next state goes on from it. -/
theorem run_succ_of_step {M : Host.Core} {s t : M.State} (k : Nat) (h : M.step s = .next t) :
    M.run (k + 1) s = M.run k t := by
  rw [Host.Core.run, h]

/-- Settles O53: each step that does not end the command uses up a host action, so the host's list bounds them. -/
theorem anAcceptedCommandEnds : Obligations.AnAcceptedCommandEnds := by
  intro s w hw
  induction hn : s.host.length generalizing s with
  | zero =>
    obtain ⟨t, ht, hfl | ⟨-, hlen⟩⟩ := step_progress hw
    · exact ⟨1, t, by omega, run_succ_of_step 0 ht, hfl⟩
    · omega
  | succ n ih =>
    obtain ⟨t, ht, hfl | ⟨hfl, hlen⟩⟩ := step_progress hw
    · exact ⟨1, t, by omega, run_succ_of_step 0 ht, hfl⟩
    · obtain ⟨k, u, hk, hrun, hu⟩ := ih t hfl (by omega)
      exact ⟨k + 1, u, by omega, (run_succ_of_step k ht).trans hrun, hu⟩

end Sys2Proof.Machine
end

section
/-! PROOFS. What the ports do not let a command see: the host's coming actions and CMD_LATENCY
(spec/20_memory.md R73; spec/93_implementation_defined.md I10). -/

namespace Sys2Proof.Machine

open Sys2Proof.Claims

/-- The state with another CMD_LATENCY and other coming actions of the host. -/
def reframe (n : Nat) (host : List HostAction) (s : State) : State := { withLatency n s with host := host }

/-- The trace write reads neither. -/
theorem writeTrace_reframe (n : Nat) (host : List HostAction) (tr : BlockTrace) (s : State) :
    writeTrace tr (reframe n host s) = reframe n host (writeTrace tr s) := by
  cases h : s.params.traceFirstOnly && s.status.tbv with
  | true => rw [writeTrace_kept tr s h, writeTrace_kept tr (reframe n host s) h]
  | false =>
    rw [writeTrace_written tr s h, writeTrace_written tr (reframe n host s) h]
    rfl

/-- A block command reads neither. -/
theorem cryptLoaded_reframe (n : Nat) (host : List HostAction) (b rk1 rk2 : Byte) (s : State) :
    cryptLoaded b rk1 rk2 (reframe n host s) = reframe n host (cryptLoaded b rk1 rk2 s) := by
  cases h : s.status.kv with
  | true =>
    have hblk : blk (reframe n host s).params = blk s.params := rfl
    rw [cryptLoaded_of_kv b rk1 rk2 s h, cryptLoaded_of_kv b rk1 rk2 (reframe n host s) h, hblk, writeTrace_reframe]
    rfl
  | false =>
    rw [cryptLoaded_of_no_kv b rk1 rk2 s h, cryptLoaded_of_no_kv b rk1 rk2 (reframe n host s) h]
    rfl

/-- No command reads the host's coming actions or CMD_LATENCY, and none changes them. -/
theorem exec_reframe {i : Instr} {s t : State} (n : Nat) (host : List HostAction) (h : exec i s = .next t) :
    exec i (reframe n host s) = .next (reframe n host t) := by
  cases i with
  | bcEnc b => cases h; exact congrArg Host.Outcome.next (cryptLoaded_reframe n host b (keyOne s) (keyTwo s) s)
  | bcDec b => cases h; exact congrArg Host.Outcome.next (cryptLoaded_reframe n host b (keyTwo s) (keyOne s) s)
  | cdT2b c =>
    by_cases hc : c.toNat ≤ 0xFF
    · cases (execCdT2b_of_le c s hc).symm.trans h
      exact execCdT2b_of_le c _ hc
    · cases (execCdT2b_of_gt c s (by omega)).symm.trans h
      exact execCdT2b_of_gt c _ (by omega)
  | cdB64e cnt b0 b1 b2 =>
    by_cases hcnt : cnt = 0#2
    · subst hcnt; cases h; rfl
    · cases htail : tailNonzero cnt b1 b2 with
      | true =>
        cases (execCdB64e_of_tail b0 s hcnt htail).symm.trans h
        exact execCdB64e_of_tail b0 _ hcnt htail
      | false =>
        cases (execCdB64e_of_ok cnt b0 b1 b2 s hcnt htail).symm.trans h
        exact execCdB64e_of_ok cnt b0 b1 b2 _ hcnt htail
  | cdB64d c0 c1 c2 c3 =>
    cases hg : b64dGroup c0 c1 c2 c3 with
    | none =>
      cases (execCdB64d_of_none c0 c1 c2 c3 s hg).symm.trans h
      exact execCdB64d_of_none c0 c1 c2 c3 _ hg
    | some g =>
      cases (execCdB64d_of_some c0 c1 c2 c3 s g hg).symm.trans h
      exact execCdB64d_of_some c0 c1 c2 c3 _ g hg
  | _ => cases h; rfl

/-- A word reads neither, whether it decodes or not. -/
theorem runWord_reframe {w : CmdWord} {s t : State} (n : Nat) (host : List HostAction) (h : runWord w s = .next t) :
    runWord w (reframe n host s) = .next (reframe n host t) := by
  cases hd : decode w with
  | ok i =>
    rw [runWord_of_ok hd] at h ⊢
    exact exec_reframe n host h
  | error e =>
    rw [runWord_of_error hd] at h ⊢
    cases h
    rfl

/-- The read space shows neither. -/
theorem readReg_reframe (n : Nat) (host : List HostAction) (s : State) (a : RAddr) :
    readReg (reframe n host s) a = readReg s a := rfl

/-- So a register after the word in flight is the same with other actions of the host to come. -/
theorem readReg_afterWord_reframe (n : Nat) (host : List HostAction) (w : CmdWord) (s : State) (a : RAddr) :
    readReg (afterWord w (reframe n host s)) a = readReg (afterWord w s) a := by
  obtain ⟨t, ht, -⟩ := runWord_effect w s
  rw [afterWord_of_next ht, afterWord_of_next (runWord_reframe n host ht), readReg_reframe]

/-- A read while a word is in flight takes one of two values (R73). -/
theorem readValue_of_inFlight {s : State} {w : CmdWord} (a : RAddr) (hw : s.inFlight = some w) :
    readValue a s = readReg s a ∨ readValue a s = readReg (afterWord w s) a := by
  unfold readValue freeChoice
  rw [hw]
  dsimp only
  split
  · exact .inr rfl
  · exact .inl rfl

/-- Settles O51: the read takes one of its two values in the state whose host has this action behind it, and
`readReg_afterWord_reframe` makes both the statement's. -/
theorem aRacingReadIsOldOrNew : Obligations.ARacingReadIsOldOrNew := by
  intro s a rest w hhost hw
  obtain ⟨u, hu, -⟩ := runWord_effect w s
  refine ⟨_, u, step_of_read (.inl hhost), hu, ?_⟩
  have hnew : readReg (afterWord w { s with host := rest }) a = readReg u a := by
    rw [← afterWord_of_next hu]
    exact readReg_afterWord_reframe s.params.cmdLatency rest w s a
  rw [← hnew]
  exact readValue_of_inFlight (s := { s with host := rest }) a hw

/-- Another CMD_LATENCY is a reframing with the same actions of the host. -/
theorem withLatency_eq_reframe (n : Nat) (s : State) : withLatency n s = reframe n s.host s := rfl

theorem readValue_withLatency (n : Nat) (a : RAddr) (s : State) : readValue a (withLatency n s) = readValue a s := by
  cases hw : s.inFlight with
  | none => simp only [readValue, withLatency, hw]; rfl
  | some w =>
    have hnew := readReg_afterWord_reframe n s.host w s a
    rw [← withLatency_eq_reframe] at hnew
    simp only [readValue, show (withLatency n s).inFlight = some w from hw, hw, hnew]
    rfl

theorem sampleRead_withLatency (n : Nat) (a : RAddr) (s : State) :
    sampleRead a (withLatency n s) = withLatency n (sampleRead a s) := by
  unfold sampleRead
  rw [readValue_withLatency]
  rfl

theorem rstFall_withLatency (n : Nat) (s : State) : rstFall (withLatency n s) = withLatency n (rstFall s) := by
  cases h : s.rst with
  | true => rw [rstFall_of_high s h, rstFall_of_high (withLatency n s) h]; rfl
  | false => rw [rstFall_of_low s h, rstFall_of_low (withLatency n s) h]

/-- A host action does the same whatever CMD_LATENCY is. -/
theorem HostEffect.withLatency {s t : State} {a : HostAction} (h : HostEffect s a t) (n : Nat) :
    hostAct a (withLatency n s) = some (withLatency n t) := by
  cases h with
  | accept w low idle => simp [hostAct, cmdReady, busy, Claims.withLatency, low, idle]
  | read a idle =>
    rw [← sampleRead_withLatency]
    simp [hostAct, busy, Claims.withLatency, idle]
  | readNow a => exact congrArg some (sampleRead_withLatency n a s)
  | fall => exact congrArg some (rstFall_withLatency n s)
  | power => exact congrArg some (rstFall_withLatency n (rstRise s))
  | withdraw | rise => rfl

/-- Settles O55: neither a host action nor a completion reads the latency. -/
theorem noStepDependsOnTheLatency : Obligations.NoStepDependsOnTheLatency := by
  intro s t n h
  obtain ⟨a, rest, hhost, heff⟩ | ⟨hwaits, w, hw, hrun⟩ := step_cases h
  · exact step_of_hostAct hhost (heff.withLatency n)
  · have hstep : step (withLatency n s) = runWord w { withLatency n s with inFlight := none } :=
      step_of_inFlight (s := withLatency n s) hw hwaits
    obtain ⟨-, -, -, -, -, hhost, -⟩ := samePorts_of_runWord hrun
    have hsame : reframe n s.host t = withLatency n t := by rw [withLatency_eq_reframe, hhost]
    rw [hstep, ← hsame]
    exact runWord_reframe n s.host hrun

end Sys2Proof.Machine
end

section
/-! PROOFS. Which registers a step writes, and what the registers say of each other after it (spec/10_state.md R32
to R41; spec/70_reset_and_hazards.md R280). -/

namespace Sys2Proof.Machine

open Sys2Proof.Claims

/-- What a step does to the registers. -/
inductive RegisterEffect (s t : State) : Prop where
  /-- No register is written. -/
  | keep (same : SameRegs s t)
  /-- A reset clears them all. -/
  | reset (comes : ResetComes s) (u : State) (cleared : t = clearRegs u)
  /-- A command in flight completes. -/
  | command (i : Instr) (completes : Completes s i) (effect : Effect i { s with inFlight := none } t)
  /-- A word in flight that does not decode ends in its error. -/
  | undecoded (waits : hostWaits s = true) (busy : s.inFlight ≠ none) (e : ErrCode) (legal : e ≠ .blockSize)
      (raised : t = raiseError e { s with inFlight := none })

/-- Every step that answers a next state does one of these to the registers. -/
theorem registerEffect_of_step {s t : State} (h : step s = .next t) : RegisterEffect s t := by
  obtain ⟨a, rest, hhost, heff⟩ | ⟨hwaits, w, hw, hrun⟩ := step_cases h
  · cases heff with
    | fall =>
      by_cases hrst : s.rst = true
      · exact .reset (.inl ⟨rest, hhost, hrst⟩) _ (rstFall_eq_clearRegs (s := { s with host := rest }) hrst)
      · rw [rstFall_of_low { s with host := rest } (Bool.eq_false_iff.2 hrst)]
        exact .keep ⟨rfl, rfl, rfl, rfl, rfl⟩
    | power => exact .reset (.inr ⟨rest, hhost⟩) _ (powerUp_eq_clearRegs _)
    | accept | withdraw | read | readNow | rise => exact .keep ⟨rfl, rfl, rfl, rfl, rfl⟩
  · cases hd : decode w with
    | ok i =>
      rw [runWord_of_ok hd] at hrun
      exact .command i ⟨hwaits, w, hw, hd⟩ (effect_of_exec hrun)
    | error e =>
      rw [runWord_of_error hd] at hrun
      have hlegal : e ≠ .blockSize := by obtain rfl | rfl := decode_error hd <;> decide
      exact .undecoded hwaits (by simp [hw]) e hlegal (Host.Outcome.next.inj hrun).symm

section

variable {s t : State}

/-- Coherence speaks of the registers, the parameters and the idleness of a core in reset alone. -/
theorem Coherent.of_sameRegs (h : Coherent s) (hregs : SameRegs s t) (hparams : t.params = s.params)
    (hidle : t.rst = true → t.inFlight = none) : Coherent t := by
  obtain ⟨hres, hstatus, hkeys, htks, htbk⟩ := hregs
  obtain ⟨errLegal, errorSeen, noKey, keyShown, traceShown, -⟩ := h
  refine ⟨?_, ?_, ?_, ?_, ?_, hidle⟩
  · rwa [hstatus]
  · rwa [hstatus, hres]
  · rwa [hstatus, hkeys, htks]
  · rwa [hstatus, hkeys, htks]
  · rwa [keyOne, keyTwo, hstatus, htbk, hparams, hkeys]

/-- Cleared registers are coherent, whatever stood before. -/
theorem coherent_clearRegs (hidle : s.rst = true → s.inFlight = none) : Coherent (clearRegs s) where
  errLegal := Nat.zero_le 6
  errorSeen := fun herr => absurd rfl herr
  noKey := fun _ => ⟨rfl, rfl, rfl⟩
  keyShown := nofun
  traceShown := nofun
  rstIdle := hidle

/-- Settles O47: the registers of `State.reset` are cleared ones. -/
theorem resetIsCoherent : Obligations.ResetIsCoherent := coherent_clearRegs (s := State.reset) nofun

/-- A success writes RES, and an ERR of 0 that asks nothing of RES or ESTK. -/
theorem Coherent.succeed (h : Coherent s) (r : Word) : Coherent (succeed r s) where
  errLegal := Nat.zero_le 6
  errorSeen := fun herr => absurd rfl herr
  noKey := h.noKey
  keyShown := h.keyShown
  traceShown := h.traceShown
  rstIdle := h.rstIdle

/-- The codes a command raises are up to 6 (spec/60_exceptions.md R250). -/
theorem errNumber_le_six {e : ErrCode} (h : e ≠ .blockSize) : (errNumber e).toNat ≤ 6 := by
  cases e with
  | blockSize => exact absurd rfl h
  | _ => decide

/-- An error writes what R252 asks of RES and ESTK. -/
theorem Coherent.raiseError (h : Coherent s) {e : ErrCode} (hlegal : e ≠ .blockSize) : Coherent (raiseError e s) where
  errLegal := errNumber_le_six hlegal
  errorSeen := fun _ => ⟨rfl, rfl⟩
  noKey := h.noKey
  keyShown := h.keyShown
  traceShown := h.traceShown
  rstIdle := h.rstIdle

/-- A key load writes the schedule of its key and puts the trace out of view (R37, R40). -/
theorem Coherent.writeKey (h : Coherent s) (key : Key) : Coherent (writeKey (subkeys key) (keyTrace key) s) where
  errLegal := h.errLegal
  errorSeen := h.errorSeen
  noKey := nofun
  keyShown := fun _ => ⟨rfl, rfl⟩
  traceShown := nofun
  rstIdle := h.rstIdle

/-- A trace of a block under KEYS may stand while a key is loaded (R39, R40). -/
theorem Coherent.writeTrace (h : Coherent s) (hkv : s.status.kv = true) {tr : BlockTrace}
    (htr : tr = blk s.params tr.tbk0 (keyOne s) (keyTwo s) ∨ tr = blk s.params tr.tbk0 (keyTwo s) (keyOne s)) :
    Coherent (writeTrace tr s) := by
  cases hpolicy : s.params.traceFirstOnly && s.status.tbv with
  | true => rwa [writeTrace_kept tr s hpolicy]
  | false =>
    rw [writeTrace_written tr s hpolicy]
    exact ⟨h.errLegal, h.errorSeen, fun hno => absurd (hkv.symm.trans hno) (by decide), h.keyShown, fun _ => htr,
      h.rstIdle⟩

/-- Every command keeps coherence. -/
theorem Effect.coherent {i : Instr} (heff : Effect i s t) (h : Coherent s) : Coherent t := by
  cases heff with
  | result r => exact h.succeed r
  | error e legal => exact h.raiseError legal
  | clear => exact coherent_clearRegs h.rstIdle
  | load key => exact (h.writeKey key).succeed _
  | enc b _ kv => exact (h.writeTrace kv (.inl rfl)).succeed _
  | dec b _ kv => exact (h.writeTrace kv (.inr rfl)).succeed _

/-- A host action leaves nothing in flight while `rst` is 1, if there was nothing before (R280). -/
theorem HostEffect.rstIdle {a : HostAction} (heff : HostEffect s a t) (h : s.rst = true → s.inFlight = none) :
    t.rst = true → t.inFlight = none := by
  cases heff with
  | accept w low => exact fun hrst => absurd (low.symm.trans hrst) (by decide)
  | rise => exact fun _ => rfl
  | fall => exact fun hrst => absurd ((rstFall_rst s).symm.trans hrst) (by decide)
  | power => rw [powerUp_eq]; exact fun _ => rfl
  | withdraw | read | readNow => exact h

/-- A step leaves nothing in flight while `rst` is 1, if there was nothing before. -/
theorem rstIdle_of_step (hstep : step s = .next t) (h : s.rst = true → s.inFlight = none) :
    t.rst = true → t.inFlight = none := by
  obtain ⟨a, rest, -, heff⟩ | ⟨-, w, -, hrun⟩ := step_cases hstep
  · exact heff.rstIdle h
  · obtain ⟨-, -, hfl, -⟩ := samePorts_of_runWord hrun
    exact fun _ => hfl

end

/-- Settles O48: no register written, all cleared, or the effect of one command or error on a coherent state. -/
theorem everyStepKeepsCoherence : Obligations.EveryStepKeepsCoherence := by
  intro s t h hstep
  have hidle := rstIdle_of_step hstep h.rstIdle
  have hdone : Coherent { s with inFlight := none } :=
    h.of_sameRegs ⟨rfl, rfl, rfl, rfl, rfl⟩ rfl fun _ => rfl
  cases registerEffect_of_step hstep with
  | keep same => exact h.of_sameRegs same (noStepChangesAParameter s t hstep) hidle
  | reset _ u cleared => subst cleared; exact coherent_clearRegs hidle
  | command i _ effect => exact effect.coherent hdone
  | undecoded _ _ e legal raised => subst raised; exact hdone.raiseError legal

/-- A fall of `rst` and a return of power are steps that clear the registers (log 7, log 17). -/
theorem step_of_resetComes {s : State} (h : ResetComes s) : ∃ u, step s = .next (clearRegs u) := by
  obtain ⟨rest, hhost, hrst⟩ | ⟨rest, hhost⟩ := h
  · exact ⟨_, step_of_hostAct hhost (congrArg some (rstFall_eq_clearRegs hrst))⟩
  · exact ⟨_, step_of_hostAct hhost (congrArg some (powerUp_eq_clearRegs _))⟩

/-- No command but CTL.CLR clears ESTK, and one that succeeds does not set it (R41). -/
theorem Effect.estk {i : Instr} {s t : State} (h : Effect i s t) (hclr : i ≠ .ctlClr) :
    t.status.estk = s.status.estk ∨ t.status.err ≠ 0#4 ∧ t.status.estk = true := by
  cases h with
  | error e => exact .inr ⟨errNumber_ne_zero e, rfl⟩
  | clear isClr => exact absurd isClr hclr
  | result | load => exact .inl rfl
  | enc | dec => exact .inl (writeTrace_estk _ s)

/-- Settles O12: by the effects of commands and of steps on ESTK. -/
theorem onlyClrAndResetClearTheStickyError : Obligations.OnlyClrAndResetClearTheStickyError := by
  refine ⟨fun w s t h herr => ?_, fun w s t h herr hclr => ?_, fun s t h hset hclear => ?_,
    fun s => ⟨_, exec_ctlClr s, rfl⟩, fun s h => ?_⟩
  · obtain ⟨-, -, hestk, -⟩ := isError_of_err_ne_zero h herr
    exact hestk
  · cases hd : decode w with
    | ok i =>
      rw [runWord_of_ok hd] at h
      obtain hsame | ⟨hne, -⟩ := (effect_of_exec h).estk (fun hi => hclr (hi ▸ hd))
      · exact hsame
      · exact absurd herr hne
    | error e =>
      rw [runWord_of_error hd] at h
      cases h
      exact absurd herr (errNumber_ne_zero e)
  · cases registerEffect_of_step h with
    | keep same =>
      obtain ⟨-, hstatus, -⟩ := same
      rw [hstatus, hset] at hclear
      cases hclear
    | reset comes => exact .inr comes
    | command i completes effect =>
      by_cases hclr : i = .ctlClr
      · exact .inl (hclr ▸ completes)
      · obtain hsame | ⟨-, htrue⟩ := effect.estk hclr
        · exact absurd (hset.symm.trans (hsame.symm.trans hclear)) (by decide)
        · exact absurd (htrue.symm.trans hclear) (by decide)
    | undecoded _ _ e _ raised =>
      subst raised
      cases hclear
  · obtain ⟨u, hu⟩ := step_of_resetComes h
    exact ⟨_, hu, rfl⟩

section

variable {i : Instr} {s t : State}

/-- The commands that write the key registers (R36 to R38). -/
theorem Effect.key_registers (h : Effect i s t) :
    (t.keys = s.keys ∧ t.tks = s.tks ∧ t.status.kv = s.status.kv) ∨ (∃ key, i = .ksLoad key) ∨ i = .ctlClr := by
  cases h with
  | clear isClr => exact .inr (.inr isClr)
  | load key isLoad => exact .inr (.inl ⟨key, isLoad⟩)
  | result | error => exact .inl ⟨rfl, rfl, rfl⟩
  | enc | dec => exact .inl ⟨writeTrace_keys _ s, writeTrace_tks _ s, writeTrace_kv _ s⟩

/-- The commands that write the block trace (R39). -/
theorem Effect.tbk (h : Effect i s t) : t.tbk = s.tbk ∨ (∃ b, i = .bcEnc b ∨ i = .bcDec b) ∨ i = .ctlClr := by
  cases h with
  | clear isClr => exact .inr (.inr isClr)
  | enc b isEnc => exact .inr (.inl ⟨b, .inl isEnc⟩)
  | dec b isDec => exact .inr (.inl ⟨b, .inr isDec⟩)
  | result | error | load => exact .inl rfl

/-- The commands that write TBV, and what they write (R40). -/
theorem Effect.tbv (h : Effect i s t) :
    t.status.tbv = s.status.tbv ∨ (t.status.tbv = true ∧ ∃ b, i = .bcEnc b ∨ i = .bcDec b) ∨
      (t.status.tbv = false ∧ ((∃ key, i = .ksLoad key) ∨ i = .ctlClr)) := by
  cases h with
  | clear isClr => exact .inr (.inr ⟨rfl, .inr isClr⟩)
  | load key isLoad => exact .inr (.inr ⟨rfl, .inl ⟨key, isLoad⟩⟩)
  | enc b isEnc => exact .inr (.inl ⟨writeTrace_tbv _ s, b, .inl isEnc⟩)
  | dec b isDec => exact .inr (.inl ⟨writeTrace_tbv _ s, b, .inr isDec⟩)
  | result | error => exact .inl rfl

end

/-- Settles O57: a kept or cleared register by `RegisterEffect`, a command's by the effect's lemmas. -/
theorem registersChangeOnlyByTheirCommands : Obligations.RegistersChangeOnlyByTheirCommands := by
  intro s t hstep
  cases registerEffect_of_step hstep with
  | keep same =>
    obtain ⟨hres, hstatus, hkeys, htks, htbk⟩ := same
    simp +contextual [hres, hstatus, hkeys, htks, htbk]
  | reset comes u cleared =>
    subst cleared
    exact ⟨fun _ => .inr (.inr comes), fun _ => .inr (.inr comes), nofun, fun _ _ => .inr (.inr comes),
      fun _ => .inr comes⟩
  | undecoded waits busy e _ raised =>
    subst raised
    simp +contextual [waits, busy]
  | command i completes effect =>
    refine ⟨fun hne => ?_, fun hne => ?_, fun hlow hhigh => ?_, fun hhigh hlow => ?_, fun _ => ?_⟩
    · obtain ⟨hkeys, htks, hkv⟩ | ⟨key, rfl⟩ | rfl := effect.key_registers
      · simp [hkeys, htks, hkv] at hne
      · exact .inl ⟨key, completes⟩
      · exact .inr (.inl completes)
    · obtain hsame | ⟨b, rfl | rfl⟩ | rfl := effect.tbk
      · exact absurd hsame hne
      · exact .inl ⟨b, .inl completes⟩
      · exact .inl ⟨b, .inr completes⟩
      · exact .inr (.inl completes)
    · obtain hsame | ⟨-, b, rfl | rfl⟩ | ⟨hfalse, -⟩ := effect.tbv
      · exact absurd (hlow.symm.trans (hsame.symm.trans hhigh)) (by decide)
      · exact ⟨b, .inl completes⟩
      · exact ⟨b, .inr completes⟩
      · exact absurd (hfalse.symm.trans hhigh) (by decide)
    · obtain hsame | ⟨htrue, -⟩ | ⟨-, ⟨key, rfl⟩ | rfl⟩ := effect.tbv
      · exact absurd (hhigh.symm.trans (hsame.symm.trans hlow)) (by decide)
      · exact absurd (htrue.symm.trans hlow) (by decide)
      · exact .inl ⟨key, completes⟩
      · exact .inr (.inl completes)
    · obtain ⟨hwaits, w, hw, -⟩ := completes
      exact .inl ⟨hwaits, by simp [hw]⟩

end Sys2Proof.Machine
end

section
/-! PROOFS. The spec's sample words, and a block run as its five commands (spec/95_test_vectors.md section 2;
spec/42_block_cipher.md R174). -/

namespace Sys2Proof.Machine

open Sys2Proof.Claims

/-- Settles O3: the decoder computes on each of the seven words. -/
theorem sampleWordsOfTheSpecDecode : Obligations.SampleWordsOfTheSpecDecode :=
  ⟨rfl, rfl, rfl, rfl, rfl, rfl, rfl⟩

/-- The transform is a round, the exchange of the halves and a round, between IP and IP^-1 (R174). -/
theorem blk_tbk8_eq_rounds (p : Params) (b rk1 rk2 : Byte) :
    (blk p b rk1 rk2).tbk8 = perm tableIPINV (fk p (swapHalves (fk p (perm tableIP b) rk1)) rk2) := by
  have hswap : swapHalves (fk p (perm tableIP b) rk1) = (blk p b rk1 rk2).tbk4 := by
    rw [swapHalves, lo4_fk, hi4_fk]
    rfl
  have hround : fk p (blk p b rk1 rk2).tbk4 rk2 = (blk p b rk1 rk2).tbk7 := by
    have hhi : hi4 (blk p b rk1 rk2).tbk4 = lo4 (perm tableIP b) := hi4_append _ _
    have hlo : lo4 (blk p b rk1 rk2).tbk4 = (blk p b rk1 rk2).tbk3 := lo4_append _ _
    rw [fk, hhi, hlo]
    rfl
  rw [hswap, hround]
  rfl

/-- A byte in RES is the operand the host takes from there. -/
theorem byte_of_res {s : State} {b : Byte} (h : s.res = zext32 b) : s.res.extractLsb' 0 8 = b := by
  rw [h, extractLsb'_zext32 b (by decide)]

/-- Settles O29: each command takes the byte before it from RES, and `blk_tbk8_eq_rounds` says what they give. -/
theorem theRoundCommandsComputeTheBlock : Obligations.TheRoundCommandsComputeTheBlock := by
  intro b s hkv ip r1 sw r2
  have hip : ip.res = zext32 (perm tableIP b) := rfl
  have hr1 : r1.res = zext32 (fk s.params (perm tableIP b) (k1Of s)) :=
    congrArg (fun x => zext32 (fk s.params x (k1Of s))) (byte_of_res hip)
  have hsw : sw.res = zext32 (swapHalves (fk s.params (perm tableIP b) (k1Of s))) :=
    congrArg (fun x => zext32 (swapHalves x)) (byte_of_res hr1)
  have hr2 : r2.res = zext32 (fk s.params (swapHalves (fk s.params (perm tableIP b) (k1Of s))) (k2Of s)) :=
    congrArg (fun x => zext32 (fk s.params x (k2Of s))) (byte_of_res hsw)
  rw [byte_of_res hr2, afterCommand_bcIpinv, succeed_res, ← blk_tbk8_eq_rounds, afterCommand_bcEnc,
    cryptLoaded_res_of_kv hkv]
  rfl

end Sys2Proof.Machine
end

section
/-! PROOFS. The host's key string (spec/70_reset_and_hazards.md R283; spec/60_exceptions.md R256). -/

namespace Sys2Proof.Machine

open Sys2Proof.Claims

/-- The character of a bit in a key string. -/
def keyChar (b : Bool) : Char := if b then '1' else '0'

theorem keyBit_eq_some_iff (c : Char) (b : Bool) : keyBit c = some b ↔ c = keyChar b := by
  unfold keyBit keyChar
  by_cases h0 : c = '0'
  · subst h0
    cases b <;> decide
  · by_cases h1 : c = '1'
    · subst h1
      cases b <;> decide
    · cases b <;> simp [h0, h1]

/-- A string is read as its bits exactly when it spells them. -/
theorem mapM_keyBit_eq_some_iff (str : List Char) (bits : List Bool) :
    str.mapM keyBit = some bits ↔ str = bits.map keyChar := by
  induction str generalizing bits with
  | nil => cases bits <;> simp
  | cons c cs ih =>
    rw [List.mapM_cons]
    cases bits with
    | nil => simp [Option.bind_eq_some_iff]
    | cons b bs => simp [Option.bind_eq_some_iff, keyBit_eq_some_iff, ih]

/-- Bits appended one by one are the string positions of the value, in their order (R11). -/
theorem getMsbD_foldl_shiftConcat {m : Nat} {bits : List Bool} (hlen : bits.length = m) {i : Nat} (hi : i < m) :
    (bits.foldl (fun k b => k.shiftConcat b) 0#m).getMsbD i = bits[i] := by
  have hlt : m - 1 - i < bits.length := by omega
  have hidx : bits.length - 1 - (m - 1 - i) = i := by omega
  rw [BitVec.getMsbD_eq_getLsbD, getLsbD_foldl_shiftConcat (fun b : Bool => b) bits 0#m (m - 1 - i) (by omega)]
  simp [hi, hlt, hidx]

/-- As many bits as a value is wide give the value exactly when they are its string positions (R11). -/
theorem foldl_shiftConcat_eq_iff {m : Nat} (bits : List Bool) (x : BitVec m) :
    (bits.length = m ∧ bits.foldl (fun k b => k.shiftConcat b) 0#m = x) ↔ bits = (List.range m).map x.getMsbD := by
  constructor
  · rintro ⟨hlen, rfl⟩
    refine List.ext_getElem (by simp [hlen]) fun i hi _ => ?_
    rw [List.getElem_map, List.getElem_range, getMsbD_foldl_shiftConcat hlen (hlen ▸ hi)]
  · rintro rfl
    have hlen : ((List.range m).map x.getMsbD).length = m := by simp
    refine ⟨hlen, BitVec.eq_of_getMsbD_eq fun i hi => ?_⟩
    rw [getMsbD_foldl_shiftConcat hlen hi, List.getElem_map, List.getElem_range]

/-- Settles O43: the string spells its bits, and ten bits are the key's positions. -/
theorem aKeyStringIsTenBits : Obligations.AKeyStringIsTenBits := by
  intro str key
  have hspelt : ((List.range 10).map fun i => if key.getMsbD i then '1' else '0') =
      ((List.range 10).map key.getMsbD).map keyChar := by rw [List.map_map]; rfl
  rw [hspelt, ← mapM_keyBit_eq_some_iff, packKey]
  cases str.mapM keyBit with
  | none => simp
  | some bits =>
    rw [Option.some.injEq, ← foldl_shiftConcat_eq_iff]
    by_cases hlen : bits.length = 10 <;> simp [hlen]

end Sys2Proof.Machine
end

section
/-! PROOFS. The host's whole-message procedures (spec/43_codec.md R209, R210): which value each one gives, from every
state that agrees on what a block reads. -/

namespace Sys2Proof.Machine

open Sys2Proof.Claims

theorem SameBlockInputs.refl (s : State) : SameBlockInputs s s := ⟨rfl, rfl, rfl, rfl⟩

theorem SameBlockInputs.trans {s t u : State} (h : SameBlockInputs s t) (h' : SameBlockInputs t u) :
    SameBlockInputs s u where
  keys := h.keys.trans h'.keys
  kv := h.kv.trans h'.kv
  sboxS0 := h.sboxS0.trans h'.sboxS0
  sboxS1 := h.sboxS1.trans h'.sboxS1

theorem sameBlockInputs_succeed (r : Word) (s : State) : SameBlockInputs (succeed r s) s := ⟨rfl, rfl, rfl, rfl⟩

/-- The procedure succeeds with this value from every state with the block inputs of `s`, and leaves such a state. -/
def Gives {α : Type} (s : State) (p : Procedure α) (x : α) : Prop :=
  ∀ u, SameBlockInputs u s → ∃ t, SameBlockInputs t s ∧ p u = (.ok x, t)

section

variable {α β : Type} {s : State}

theorem gives_give (x : α) : Gives s (give x) x := fun u hu => ⟨u, hu, rfl⟩

theorem andThen_of_ok {p : Procedure α} {u t : State} {x : α} (h : p u = (.ok x, t)) (f : α → Procedure β) :
    andThen p f u = f x t := by
  simp [andThen, h]

theorem andThen_of_error {p : Procedure α} {u t : State} {e : MessageError} (h : p u = (.error e, t))
    (f : α → Procedure β) : andThen p f u = (.error e, t) := by
  simp [andThen, h]

/-- Two procedures in a row. -/
theorem Gives.andThen {p : Procedure α} {f : α → Procedure β} {x : α} {y : β} (hp : Gives s p x)
    (hf : Gives s (f x) y) : Gives s (andThen p f) y := by
  intro u hu
  obtain ⟨t, ht, hpu⟩ := hp u hu
  rw [andThen_of_ok hpu]
  exact hf t ht

/-- One procedure for each element gives the list of their values. -/
theorem gives_forEach {f : α → Procedure β} {g : α → β} {xs : List α} (h : ∀ x ∈ xs, Gives s (f x) (g x)) :
    Gives s (forEach f xs) (xs.map g) := by
  induction xs with
  | nil => exact gives_give []
  | cons x xs ih =>
    have hx := h x List.mem_cons_self
    have hxs := ih fun y hy => h y (List.mem_cons_of_mem x hy)
    exact hx.andThen (hxs.andThen (gives_give _))

/-- A command that succeeds gives its RES. -/
theorem ask_of_err_zero {i : Instr} {u : State} (h : (afterCommand i u).status.err = 0#4) :
    ask i u = (.ok (afterCommand i u).res, afterCommand i u) := by
  simp [ask, errClear, h]

/-- A command that writes RES and ERR alone leaves what a block reads. -/
theorem gives_ask_of_succeed {i : Instr} {r : Word} (h : ∀ u, afterCommand i u = succeed r u) : Gives s (ask i) r := by
  intro u hu
  have herr : (afterCommand i u).status.err = 0#4 := by rw [h]; rfl
  refine ⟨succeed r u, (sameBlockInputs_succeed r u).trans hu, ?_⟩
  rw [ask_of_err_zero herr, h]
  rfl

/-- A block under a loaded key (spec/42_block_cipher.md R175, R176). -/
theorem gives_ask_of_cryptLoaded {i : Instr} {b rk1 rk2 : Byte} (hkv : s.status.kv = true)
    (h : ∀ u, SameBlockInputs u s → afterCommand i u = cryptLoaded b rk1 rk2 u) :
    Gives s (ask i) (zext32 (blk s.params b rk1 rk2).tbk8) := by
  intro u hu
  have hkvu := hu.kv.trans hkv
  have herr : (afterCommand i u).status.err = 0#4 := by rw [h u hu, cryptLoaded_err_of_kv b rk1 rk2 u hkvu]
  refine ⟨cryptLoaded b rk1 rk2 u, (sameBlockInputs_cryptLoaded b rk1 rk2 u).trans hu, ?_⟩
  rw [ask_of_err_zero herr, h u hu, cryptLoaded_res_of_kv hkvu, blk_congr hu.sboxS0 hu.sboxS1]

end

section

variable {s : State}

theorem lowByte_eq_setWidth (c : CharCode) : c.extractLsb' 0 8 = c.setWidth 8 :=
  (BitVec.setWidth_eq_extractLsb' (by decide)).symm

/-- The byte the host takes from the result of CD.T2B (R209). -/
theorem extractLsb'_zext32_charCode (c : CharCode) : (zext32 c).extractLsb' 0 8 = c.setWidth 8 := by
  rw [zext32, BitVec.extractLsb'_setWidth_of_le (by decide), lowByte_eq_setWidth]

/-- The step of textToBinary for one character (R209). -/
theorem gives_ask_cdT2b {c : CharCode} (h : c.toNat ≤ 255) :
    Gives s (andThen (ask (.cdT2b c)) fun r => give (r.extractLsb' 0 8)) (c.setWidth 8) := by
  refine (gives_ask_of_succeed (afterCommand_cdT2b_of_le h)).andThen ?_
  rw [extractLsb'_zext32_charCode]
  exact gives_give _

/-- textToBinary gives the codes as bytes, when each is up to 255 (R209). -/
theorem gives_textToBinary {text : List CharCode} (h : ∀ c ∈ text, c.toNat ≤ 255) :
    Gives s (textToBinary text) (text.map fun c => c.setWidth 8) :=
  gives_forEach fun c hc => gives_ask_cdT2b (h c hc)

/-- A code above 255 ends its CD.T2B in the host's error for a character range (R201; spec/60_exceptions.md R256). -/
theorem ask_cdT2b_of_gt {c : CharCode} (h : 255 < c.toNat) (u : State) :
    ask (.cdT2b c) u = (.error .charRange, raiseError .charRange u) := by
  have hu : afterCommand (.cdT2b c) u = raiseError .charRange u := afterCommand_of_next (execCdT2b_of_gt c u h)
  unfold ask
  rw [hu]
  rfl

theorem textToBinary_cons (c : CharCode) (cs : List CharCode) :
    textToBinary (c :: cs) = andThen (andThen (ask (.cdT2b c)) fun r => give (r.extractLsb' 0 8)) fun y =>
      andThen (textToBinary cs) fun ys => give (y :: ys) := rfl

/-- The first code above 255 ends textToBinary (R209). -/
theorem textToBinary_of_wide {text : List CharCode} (h : ∃ c ∈ text, 255 < c.toNat) (u : State) :
    (textToBinary text u).1 = .error .charRange := by
  induction text generalizing u with
  | nil => simp at h
  | cons c cs ih =>
    by_cases hc : c.toNat ≤ 255
    · have hcs : ∃ c ∈ cs, 255 < c.toNat := by
        obtain ⟨d, hd, hwide⟩ := h
        obtain rfl | hd := List.mem_cons.1 hd
        · omega
        · exact ⟨d, hd, hwide⟩
      obtain ⟨t, -, hfirst⟩ := gives_ask_cdT2b (s := u) hc u (.refl u)
      have hrest : textToBinary cs t = (.error .charRange, (textToBinary cs t).2) := Prod.ext (ih hcs t) rfl
      rw [textToBinary_cons, andThen_of_ok hfirst, andThen_of_error hrest]
    · have hfirst := ask_cdT2b_of_gt (Nat.lt_of_not_le hc) u
      rw [textToBinary_cons, andThen_of_error (andThen_of_error hfirst _)]

/-- Settles O42: `textToBinary_of_wide`, and with no wide code `gives_textToBinary`, which is no error. -/
theorem aWideCharacterAbortsTheText : Obligations.AWideCharacterAbortsTheText := by
  intro text s
  have hok : (∀ c ∈ text, c.toNat ≤ 255) → (textToBinary text s).1 = .ok (text.map fun c => c.setWidth 8) := by
    intro h
    obtain ⟨t, -, ht⟩ := gives_textToBinary (s := s) h s (.refl s)
    rw [ht]
  refine ⟨⟨fun herr => ?_, fun hwide => textToBinary_of_wide hwide s⟩, hok⟩
  by_contra hnone
  have hnarrow : ∀ c ∈ text, c.toNat ≤ 255 := by
    intro c hc
    by_contra hgt
    exact hnone ⟨c, hc, Nat.lt_of_not_le hgt⟩
  rw [hok hnarrow] at herr
  cases herr

/-- binaryToText gives each byte as its character code (R209). -/
theorem gives_binaryToText (bytes : List Byte) :
    Gives s (binaryToText bytes) (bytes.map fun b => b.setWidth 16) := by
  refine gives_forEach fun b _ => (gives_ask_of_succeed (afterCommand_cdB2t b)).andThen ?_
  rw [extractLsb'_zext32 _ (by decide)]
  exact gives_give _

/-- A block command for each byte gives the blocks' results (R209). -/
theorem gives_eachBlock {i : Byte → Instr} {rk1 rk2 : Byte} (hkv : s.status.kv = true)
    (h : ∀ b u, SameBlockInputs u s → afterCommand (i b) u = cryptLoaded b rk1 rk2 u) (bytes : List Byte) :
    Gives s (eachBlock i bytes) (bytes.map fun b => (blk s.params b rk1 rk2).tbk8) := by
  refine gives_forEach fun b _ => (gives_ask_of_cryptLoaded hkv (h b)).andThen ?_
  rw [extractLsb'_zext32 _ (by decide)]
  exact gives_give _

/-- A byte sent as a character code is the byte (spec/30_encoding.md R82). -/
theorem charByte_setWidth (b : Byte) : charByte (b.setWidth 16) = some b := by
  rw [charByte, if_pos (toNat_setWidth_byte_le b)]
  exact congrArg some (Laws.field_low b (by decide))

/-- The bytes of a CD.B64D result (R207). -/
theorem groupBytes_groupWord (cnt : BitVec 2) (b0 b1 b2 : Byte) :
    groupBytes (zext32 (cnt ++ packThree b0 b1 b2)) = [b0, b1, b2].take cnt.toNat := by
  rw [groupBytes, groupWord_count, groupWord_b0, groupWord_b1, groupWord_b2]

section

variable {cnt : BitVec 2} {b0 b1 b2 : Byte}

/-- The characters of an encoded group decode to its bytes, if it is the last group or a whole one (R209, R210 (c)). -/
theorem gives_decodeGroup (hcnt : cnt ≠ 0#2) (htail : tailNonzero cnt b1 b2 = false) {last : Bool}
    (hlast : last = true ∨ cnt = 3#2) :
    Gives s
      (decodeGroup (((b64eGroup cnt b0 b1 b2).extractLsb' 24 8).setWidth 16)
        (((b64eGroup cnt b0 b1 b2).extractLsb' 16 8).setWidth 16)
        (((b64eGroup cnt b0 b1 b2).extractLsb' 8 8).setWidth 16)
        (((b64eGroup cnt b0 b1 b2).extractLsb' 0 8).setWidth 16) last)
      ([b0, b1, b2].take cnt.toNat) := by
  have hask := gives_ask_of_succeed (s := s) (afterCommand_cdB64d_of_some (b64dGroup_b64eGroup b0 hcnt htail))
  have hwhole : (last || ([b0, b1, b2].take cnt.toNat).length == 3) = true := by
    obtain rfl | rfl := hlast <;> simp
  simp only [decodeGroup, charByte_setWidth]
  refine hask.andThen ?_
  rw [groupBytes_groupWord, if_pos hwhole]
  exact gives_give _

/-- An encoded group before others decodes to its bytes before theirs (R209). -/
theorem gives_decodeGroups_unpackFour (hcnt : cnt ≠ 0#2) (htail : tailNonzero cnt b1 b2 = false) {rest : List CharCode}
    (hlast : rest.isEmpty = true ∨ cnt = 3#2) {bytes : List Byte} (hrest : Gives s (decodeGroups rest) bytes) :
    Gives s (decodeGroups (unpackFour (b64eGroup cnt b0 b1 b2) ++ rest)) ([b0, b1, b2].take cnt.toNat ++ bytes) :=
  (gives_decodeGroup hcnt htail hlast).andThen (hrest.andThen (gives_give _))

/-- The characters of one encoded group (R205). -/
theorem gives_ask_cdB64e (hcnt : cnt ≠ 0#2) (htail : tailNonzero cnt b1 b2 = false) :
    Gives s (ask (.cdB64e cnt b0 b1 b2)) (b64eGroup cnt b0 b1 b2) :=
  gives_ask_of_succeed (afterCommand_cdB64e_of_ok b0 hcnt htail)

end

theorem length_unpackFour_append_mod (w : Word) {rest : List CharCode} (h : rest.length % 4 = 0) :
    (unpackFour w ++ rest).length % 4 = 0 := by
  rw [List.length_append, show (unpackFour w).length = 4 from rfl, Nat.add_mod_left, h]

/-- The host's encoder gives whole groups of characters that its decoder reads back (R210 (c)). -/
theorem gives_binaryToBase64 (bytes : List Byte) :
    ∃ cs, cs.length % 4 = 0 ∧ Gives s (binaryToBase64 bytes) cs ∧ Gives s (decodeGroups cs) bytes := by
  induction bytes using binaryToBase64.induct with
  | case1 => exact ⟨[], rfl, gives_give [], gives_give []⟩
  | case2 b0 =>
    have htail : tailNonzero 1#2 0#8 0#8 = false := by decide
    exact ⟨unpackFour (b64eGroup 1#2 b0 0#8 0#8) ++ [], length_unpackFour_append_mod _ rfl,
      (gives_ask_cdB64e (by decide) htail).andThen (gives_give _),
      gives_decodeGroups_unpackFour (by decide) htail (.inl rfl) (gives_give [])⟩
  | case3 b0 b1 =>
    have htail : tailNonzero 2#2 b1 0#8 = false := by simp
    exact ⟨unpackFour (b64eGroup 2#2 b0 b1 0#8) ++ [], length_unpackFour_append_mod _ rfl,
      (gives_ask_cdB64e (by decide) htail).andThen (gives_give _),
      gives_decodeGroups_unpackFour (by decide) htail (.inl rfl) (gives_give [])⟩
  | case4 b0 b1 b2 rest ih =>
    obtain ⟨cs, hlen, henc, hdec⟩ := ih
    have htail : tailNonzero 3#2 b1 b2 = false := tailNonzero_three b1 b2
    exact ⟨unpackFour (b64eGroup 3#2 b0 b1 b2) ++ cs, length_unpackFour_append_mod _ hlen,
      (gives_ask_cdB64e (by decide) htail).andThen (henc.andThen (gives_give _)),
      gives_decodeGroups_unpackFour (by decide) htail (.inr rfl) hdec⟩

/-- The whole-message Base64 procedures undo each other (R210 (c)). -/
theorem gives_base64 (bytes : List Byte) :
    ∃ cs, Gives s (binaryToBase64 bytes) cs ∧ Gives s (base64ToBinary cs) bytes := by
  obtain ⟨cs, hlen, henc, hdec⟩ := gives_binaryToBase64 (s := s) bytes
  refine ⟨cs, henc, ?_⟩
  rwa [base64ToBinary, if_pos hlen]

end

/-- Settles O40: `gives_base64`, the second procedure run from the state of the first. -/
theorem base64MessagesRoundTrip : Obligations.Base64MessagesRoundTrip := by
  intro bytes s
  obtain ⟨cs, henc, hdec⟩ := gives_base64 (s := s) bytes
  obtain ⟨t, ht, htext⟩ := henc s (.refl s)
  obtain ⟨u, -, hbytes⟩ := hdec t ht
  exact ⟨cs, t, u, htext, hbytes⟩

/-- A key load is answered with its subkeys (spec/40_key_schedule.md R116). -/
theorem ask_ksLoad (key : Key) (s : State) :
    ask (.ksLoad key) s = (.ok (zext32 (subkeys key)), afterCommand (.ksLoad key) s) := rfl

section

variable {key : Key} {s : State}

theorem gives_eachBlock_bcEnc (hkeys : s.keys = subkeys key) (hkv : s.status.kv = true) (bytes : List Byte) :
    Gives s (eachBlock .bcEnc bytes) (bytes.map fun b => (blk s.params b (ks key).k1 (ks key).k2).tbk8) :=
  gives_eachBlock hkv (fun b _ hu => afterCommand_bcEnc_of_keys (hu.keys.trans hkeys) b) bytes

theorem gives_eachBlock_bcDec (hkeys : s.keys = subkeys key) (hkv : s.status.kv = true) (bytes : List Byte) :
    Gives s (eachBlock .bcDec bytes) (bytes.map fun b => (blk s.params b (ks key).k2 (ks key).k1).tbk8) :=
  gives_eachBlock hkv (fun b _ hu => afterCommand_bcDec_of_keys (hu.keys.trans hkeys) b) bytes

end

/-- Deciphering each block of an enciphered list gives the list (spec/42_block_cipher.md R180). -/
theorem map_blk_map_blk (p : Params) (bytes : List Byte) (rk1 rk2 : Byte) :
    ((bytes.map fun b => (blk p b rk1 rk2).tbk8).map fun b => (blk p b rk2 rk1).tbk8) = bytes := by
  rw [List.map_map]
  exact List.map_id'' (fun b => blk_blk_tbk8 p b rk1 rk2) bytes

/-- A text of codes up to 255 is its bytes as character codes (R201, R202). -/
theorem map_setWidth_map_setWidth {text : List CharCode} (h : ∀ c ∈ text, c.toNat ≤ 255) :
    ((text.map fun c => c.setWidth 8).map fun b : Byte => b.setWidth 16) = text := by
  have hone : ∀ c ∈ text, (c.setWidth 8).setWidth 16 = c := by
    intro c hc
    rw [← lowByte_eq_setWidth, setWidth_lowByte_of_le (h c hc)]
  rw [List.map_map]
  exact (List.map_congr_left hone).trans (List.map_id text)

/-- Settles O41: both texts are processed under the same loaded key, where the block commands and the Base64
procedures undo each other. -/
theorem decryptingAnEncryptedTextGivesItBack : Obligations.DecryptingAnEncryptedTextGivesItBack := by
  intro text key s hnarrow
  let load := afterCommand (.ksLoad key) s
  have hkeys : load.keys = subkeys key := rfl
  have hkv : load.status.kv = true := rfl
  let bytes : List Byte := text.map fun c => c.setWidth 8
  let blocks := bytes.map fun b => (blk load.params b (ks key).k1 (ks key).k2).tbk8
  obtain ⟨cs, henc, hdec⟩ := gives_base64 (s := load) blocks
  have hencrypt : Gives load
      (andThen (textToBinary text) fun bytes => andThen (eachBlock .bcEnc bytes) binaryToBase64) cs :=
    (gives_textToBinary hnarrow).andThen ((gives_eachBlock_bcEnc hkeys hkv bytes).andThen henc)
  have hdecrypt : Gives load
      (andThen (base64ToBinary cs) fun bytes => andThen (eachBlock .bcDec bytes) binaryToText) text := by
    have hblocks := gives_eachBlock_bcDec hkeys hkv blocks
    have htext := gives_binaryToText (s := load) bytes
    rw [map_blk_map_blk] at hblocks
    rw [map_setWidth_map_setWidth hnarrow] at htext
    exact hdec.andThen (hblocks.andThen htext)
  obtain ⟨t, ht, hcs⟩ := hencrypt load (.refl load)
  have hagain : SameBlockInputs (afterCommand (.ksLoad key) t) load := ⟨rfl, rfl, ht.sboxS0, ht.sboxS1⟩
  obtain ⟨u, -, hu⟩ := hdecrypt _ hagain
  refine ⟨cs, t, u, ?_, ?_⟩
  · rw [encryptText, andThen_of_ok (ask_ksLoad key s)]
    exact hcs
  · rw [decryptText, andThen_of_ok (ask_ksLoad key t)]
    exact hu

end Sys2Proof.Machine
end

section
/-! PROOFS. The texts of literals (spec/30_encoding.md R88). -/

namespace Sys2Proof.Machine

open Sys2Proof.Claims

section

variable {base : Nat} {letters : String}

/-- Each digit more multiplies the value before it by the base. -/
theorem digitsValue_cons (d : Fin base) (ds : List (Fin base)) :
    digitsValue (d :: ds) = base ^ ds.length * d.val + digitsValue ds := by
  rw [digitsValue, List.reverse_cons, List.map_append, Nat.ofDigits_append]
  simp [digitsValue, Nat.add_comm]

/-- A run of digits is read on from any value before it. -/
theorem digitsFrom_digitChars (hletters : ∀ d : Fin base, digitValue base (letters.toList.getD d.val ' ') = some d.val)
    (ds : List (Fin base)) (acc : Nat) :
    digitsFrom base acc (digitChars letters ds) = some (base ^ ds.length * acc + digitsValue ds) := by
  induction ds generalizing acc with
  | nil => simp [digitChars, digitsFrom, digitsValue]
  | cons d ds ih =>
    have hrest : digitsFrom base acc (digitChars letters (d :: ds)) =
        digitsFrom base (acc * base + d.val) (digitChars letters ds) := by
      simp only [digitChars, List.map_cons, digitsFrom, hletters]
    rw [hrest, ih, digitsValue_cons, List.length_cons, Nat.pow_succ]
    congr 1
    ring

/-- A run of digits with at least one digit is its value. -/
theorem digits_digitChars (hletters : ∀ d : Fin base, digitValue base (letters.toList.getD d.val ' ') = some d.val)
    {ds : List (Fin base)} (hds : ds ≠ []) : digits base (digitChars letters ds) = some (.number (digitsValue ds)) := by
  have hne : (digitChars letters ds).isEmpty = false := by simpa [digitChars] using hds
  rw [digits, hne, digitsFrom_digitChars hletters]
  simp

end

/-- A text with none of the marks of the other literals is decimal. -/
theorem readOperand_of_unmarked {cs : List Char} (h : ∀ c ∈ cs, c ∉ ['x', 'b', '\'', '"']) :
    readOperand cs = digits 10 cs := by
  unfold readOperand
  split
  case h_5 => rfl
  all_goals simp at h

/-- A decimal digit is no mark of another literal. -/
theorem decimal_unmarked : ∀ d : Fin 10, "0123456789".toList.getD d.val ' ' ∉ ['x', 'b', '\'', '"'] := by decide

/-- Before more characters, one that is no double quote stands for its code. -/
theorem quoted_cons {c : Char} (hc : c ≠ '"') {cs : List Char} (hcs : cs ≠ []) :
    quoted (c :: cs) = (quoted cs).map (c.toNat :: ·) := by
  cases cs with
  | nil => exact absurd rfl hcs
  | cons => simp [quoted, hc]

/-- Characters up to a closing double quote are read as their codes. -/
theorem quoted_append {cs : List Char} (h : '"' ∉ cs) : quoted (cs ++ ['"']) = some (cs.map Char.toNat) := by
  induction cs with
  | nil => rfl
  | cons c cs ih =>
    obtain ⟨hc, hcs⟩ := List.ne_and_not_mem_of_not_mem_cons h
    rw [List.cons_append, quoted_cons (Ne.symm hc) (by simp), ih hcs]
    rfl

/-- Settles O59: the two characters before the digits choose the base, and `digits_digitChars` reads the digits in it. -/
theorem literalsAreReadAsTheirValues : Obligations.LiteralsAreReadAsTheirValues := by
  refine ⟨fun ds hds => ?_, fun ds hds => ⟨?_, ?_⟩, fun ds hds => ?_, fun c => rfl, fun cs hcs => ?_⟩
  · have hunmarked : ∀ c ∈ digitChars "0123456789" ds, c ∉ ['x', 'b', '\'', '"'] :=
      List.forall_mem_map.2 fun d _ => decimal_unmarked d
    rw [readOperand_of_unmarked hunmarked]
    exact digits_digitChars (by decide) hds
  · exact digits_digitChars (by decide) hds
  · exact digits_digitChars (by decide) hds
  · exact digits_digitChars (by decide) hds
  · have hread : readOperand ('"' :: (cs ++ ['"'])) = (quoted (cs ++ ['"'])).map .string := rfl
    rw [hread, quoted_append hcs]
    rfl

end Sys2Proof.Machine
end

section
/-! PROOFS. The assembler's operands and mnemonics (spec/30_encoding.md R82, R85, R88). -/

namespace Sys2Proof.Machine

open Sys2Proof.Claims

/-- A number is a field's value, or it does not fit (R88). -/
@[simp] theorem fit_number_eq_some_iff {n : Nat} (x : Nat) (v : BitVec n) : fit n (.number x) = some v ↔ x = v.toNat := by
  by_cases hlt : x < 2 ^ n
  · rw [fit, if_pos hlt, Option.some.injEq, ← BitVec.toNat_inj, BitVec.toNat_ofNat, Nat.mod_eq_of_lt hlt]
  · rw [fit, if_neg hlt]
    exact ⟨nofun, fun hx => absurd (hx ▸ v.isLt) hlt⟩

theorem asmNone_eq_some_iff {j i : Instr} {ys : List Operand} : asmNone j ys = some i ↔ ys = [] ∧ j = i := by
  cases ys <;> simp [asmNone]

theorem asmOne_eq_some_iff {n : Nat} {f : BitVec n → Instr} {ys : List Operand} {i : Instr} :
    asmOne f ys = some i ↔ ∃ x v, ys = [x] ∧ fit n x = some v ∧ f v = i := by
  obtain _ | ⟨x, _ | ⟨y, ys⟩⟩ := ys <;> simp [asmOne]

theorem asmTwo_eq_some_iff {n m : Nat} {f : BitVec n → BitVec m → Instr} {ys : List Operand} {i : Instr} :
    asmTwo f ys = some i ↔ ∃ x y a b, ys = [x, y] ∧ fit n x = some a ∧ fit m y = some b ∧ f a b = i := by
  obtain _ | ⟨x, _ | ⟨y, _ | ⟨z, ys⟩⟩⟩ := ys
  case cons.cons.nil => cases hx : fit n x <;> cases hy : fit m y <;> simp [asmTwo, hx, hy]
  all_goals simp [asmTwo]

theorem asmFour_eq_some_iff {n : Nat} {f : BitVec n → Byte → Byte → Byte → Instr} {x y z u : Operand} {i : Instr} :
    asmFour f x y z u = some i ↔
      ∃ a b c d, fit n x = some a ∧ fit 8 y = some b ∧ fit 8 z = some c ∧ fit 8 u = some d ∧ f a b c d = i := by
  unfold asmFour
  cases fit n x <;> cases fit 8 y <;> cases fit 8 z <;> cases fit 8 u <;> simp

/-- Format N has no operand. -/
theorem asmNone_number_iff (i : Instr) (xs : List Nat) : asmNone i (xs.map .number) = some i ↔ xs = [] := by
  simp [asmNone_eq_some_iff]

/-- One field's number is its value. -/
theorem asmOne_number_iff {n : Nat} {f : BitVec n → Instr} (hf : Function.Injective f) (v : BitVec n) (xs : List Nat) :
    asmOne f (xs.map .number) = some (f v) ↔ xs = [v.toNat] := by
  rw [asmOne_eq_some_iff]
  constructor
  · rintro ⟨x, v', hxs, hfit, hv⟩
    cases hf hv
    obtain ⟨k, rfl, rfl⟩ := List.map_eq_singleton_iff.1 hxs
    rw [(fit_number_eq_some_iff k v).1 hfit]
  · rintro rfl
    exact ⟨_, v, rfl, (fit_number_eq_some_iff _ v).2 rfl, rfl⟩

/-- Two fields' numbers are their values, in their order. -/
theorem asmTwo_number_iff {n m : Nat} {f : BitVec n → BitVec m → Instr} (hf : Function.Injective2 f) (a : BitVec n)
    (b : BitVec m) (xs : List Nat) : asmTwo f (xs.map .number) = some (f a b) ↔ xs = [a.toNat, b.toNat] := by
  rw [asmTwo_eq_some_iff]
  constructor
  · rintro ⟨x, y, a', b', hxs, hx, hy, hi⟩
    obtain ⟨rfl, rfl⟩ := hf hi
    obtain _ | ⟨k, _ | ⟨l, _ | ⟨_, _⟩⟩⟩ := xs
    case cons.cons.nil =>
      cases hxs
      rw [(fit_number_eq_some_iff k a').1 hx, (fit_number_eq_some_iff l b').1 hy]
    all_goals simp at hxs
  · rintro rfl
    exact ⟨_, _, a, b, rfl, (fit_number_eq_some_iff _ a).2 rfl, (fit_number_eq_some_iff _ b).2 rfl, rfl⟩

/-- A number for format C16 is read as any other number. -/
theorem asmChar_number (xs : List Nat) : asmChar (xs.map .number) = asmOne .cdT2b (xs.map .number) := by
  obtain _ | ⟨x, _ | ⟨y, xs⟩⟩ := xs <;> rfl

/-- Format G3 takes one to four numbers, and 0 for the omitted ones (R82, R88). -/
theorem asmGroup_number_iff (cnt : BitVec 2) (b0 b1 b2 : Byte) (xs : List Nat) :
    asmGroup (xs.map .number) = some (.cdB64e cnt b0 b1 b2) ↔
      xs ≠ [] ∧ xs ++ List.replicate (4 - xs.length) 0 = [cnt.toNat, b0.toNat, b1.toNat, b2.toNat] := by
  obtain _ | ⟨x, _ | ⟨y, _ | ⟨z, _ | ⟨u, _ | ⟨_, xs⟩⟩⟩⟩⟩ := xs <;>
    simp [asmGroup, asmFour_eq_some_iff, List.replicate]

/-- Format C4 takes four numbers (R82). -/
theorem asmCodes_number_iff (c0 c1 c2 c3 : Byte) (xs : List Nat) :
    asmCodes (xs.map .number) = some (.cdB64d c0 c1 c2 c3) ↔ xs = [c0.toNat, c1.toNat, c2.toNat, c3.toNat] := by
  obtain _ | ⟨x, _ | ⟨y, _ | ⟨z, _ | ⟨u, _ | ⟨_, xs⟩⟩⟩⟩⟩ := xs <;>
    simp [asmCodes, asmFour_eq_some_iff]

/-- A string of four characters is read as its four codes (R88). -/
theorem asmCodes_string (codes : List Nat) : asmCodes [.string codes] = asmCodes (codes.map .number) := by
  obtain _ | ⟨x, _ | ⟨y, _ | ⟨z, _ | ⟨u, _ | ⟨_, xs⟩⟩⟩⟩⟩ := codes <;> rfl

/-- The format of a command's OP reads the numbers that spell it, and no others (R82, R88). -/
theorem asmOperands_opByte_iff (i : Instr) (xs : List Nat) :
    asmOperands (opByte i) (xs.map .number) = some i ↔ Spells xs i := by
  cases i with
  | ctlNop | ctlClr => exact asmNone_number_iff _ xs
  | ksP10 v | ksRot1 v | ksRot2 v | ksP8 v | ksLoad v | frEp v | frSbox0 v | frSbox1 v | frP4 v | bcIp v | bcIpinv v
  | bcSw v | bcEnc v | bcDec v | cdB2t v | cdHex v =>
    exact asmOne_number_iff (fun _ _ h => by cases h; rfl) v xs
  | frXor a b | frF a b | frFk a b | bcEnck a b | bcDeck a b =>
    exact asmTwo_number_iff (fun _ _ _ _ h => by cases h; exact ⟨rfl, rfl⟩) a b xs
  | cdT2b c =>
    have hone := asmOne_number_iff (f := Instr.cdT2b) (fun _ _ h => by cases h; rfl) c xs
    rwa [← asmChar_number] at hone
  | cdB64e cnt b0 b1 b2 => exact asmGroup_number_iff cnt b0 b1 b2 xs
  | cdB64d c0 c1 c2 c3 => exact asmCodes_number_iff c0 c1 c2 c3 xs

section

variable {op : Byte} {ys : List Operand} {i : Instr}

theorem opByte_of_asmNone {j : Instr} (hj : opByte j = op) (h : asmNone j ys = some i) : opByte i = op := by
  obtain ⟨-, rfl⟩ := asmNone_eq_some_iff.1 h
  exact hj

theorem opByte_of_asmOne {n : Nat} {f : BitVec n → Instr} (hf : ∀ v, opByte (f v) = op) (h : asmOne f ys = some i) :
    opByte i = op := by
  obtain ⟨_, v, -, -, rfl⟩ := asmOne_eq_some_iff.1 h
  exact hf v

theorem opByte_of_asmTwo {n m : Nat} {f : BitVec n → BitVec m → Instr} (hf : ∀ a b, opByte (f a b) = op)
    (h : asmTwo f ys = some i) : opByte i = op := by
  obtain ⟨_, _, a, b, -, -, -, rfl⟩ := asmTwo_eq_some_iff.1 h
  exact hf a b

theorem opByte_of_asmFour {n : Nat} {f : BitVec n → Byte → Byte → Byte → Instr} {x y z u : Operand}
    (hf : ∀ a b c d, opByte (f a b c d) = op) (h : asmFour f x y z u = some i) : opByte i = op := by
  obtain ⟨a, b, c, d, -, -, -, -, rfl⟩ := asmFour_eq_some_iff.1 h
  exact hf a b c d

theorem opByte_of_asmChar (h : asmChar ys = some i) : opByte i = 0x40#8 := by
  unfold asmChar at h
  split at h
  · obtain ⟨v, -, rfl⟩ := Option.map_eq_some_iff.1 h
    rfl
  · cases h

theorem opByte_of_asmGroup (h : asmGroup ys = some i) : opByte i = 0x42#8 := by
  unfold asmGroup at h
  split at h
  case h_5 => cases h
  all_goals exact opByte_of_asmFour (fun _ _ _ _ => rfl) h

theorem opByte_of_asmCodes (h : asmCodes ys = some i) : opByte i = 0x43#8 := by
  unfold asmCodes at h
  split at h
  case h_3 => cases h
  all_goals exact opByte_of_asmFour (fun _ _ _ _ => rfl) h

/-- The operand reader of an OP reads commands of that OP, by its format (R82, R85). -/
theorem opByte_of_asmOperands (h : asmOperands op ys = some i) : opByte i = op := by
  unfold asmOperands at h
  split at h
  case h_1 | h_2 => exact opByte_of_asmNone rfl h
  case h_9 | h_13 | h_14 | h_20 | h_21 => exact opByte_of_asmTwo (fun _ _ => rfl) h
  case h_22 => exact opByte_of_asmChar h
  case h_24 => exact opByte_of_asmGroup h
  case h_25 => exact opByte_of_asmCodes h
  case h_27 => cases h
  all_goals exact opByte_of_asmOne (fun _ => rfl) h

/-- Numbers are read as a command exactly when they spell it and the OP is its own (R88). -/
theorem asmOperands_number_iff (op : Byte) (xs : List Nat) (i : Instr) :
    asmOperands op (xs.map .number) = some i ↔ opByte i = op ∧ Spells xs i := by
  constructor
  · intro h
    obtain rfl := opByte_of_asmOperands h
    exact ⟨rfl, (asmOperands_opByte_iff i xs).1 h⟩
  · rintro ⟨rfl, hspells⟩
    exact (asmOperands_opByte_iff i xs).2 hspells

/-- Outside format G3 no operand may be omitted. -/
theorem spells_iff_of_opByte {xs : List Nat} (hop : opByte i = op) (hne : op ≠ 0x42#8) :
    Spells xs i ↔ xs = operandValues i := by
  rw [Spells, hop, if_neg hne]

end

/-- A character operand of CD.T2B is read as its code (R88). -/
theorem asmOperands_character (code : Nat) :
    asmOperands 0x40#8 [.character code] = asmOperands 0x40#8 ([code].map .number) := rfl

/-- A string operand of CD.B64D is read as its codes (R88). -/
theorem asmOperands_string (codes : List Nat) :
    asmOperands 0x43#8 [.string codes] = asmOperands 0x43#8 (codes.map .number) := asmCodes_string codes

/-- A letter in lower case, and any other character as it is. -/
def lower (u : Char) : Char := if 0x41 ≤ u.toNat ∧ u.toNat ≤ 0x5A then Char.ofNat (u.toNat + 0x20) else u

/-- A character is the upper or the lower case of the character it is read as. -/
theorem eq_upper_or_eq_lower_upper (c : Char) : c = upper c ∨ c = lower (upper c) := by
  unfold upper
  split
  next hc =>
    have hval : (Char.ofNat (c.toNat - 0x20)).toNat = c.toNat - 0x20 := by
      rw [Char.toNat_ofNat, if_pos (.inl (by omega))]
    have hback : c.toNat - 0x20 + 0x20 = c.toNat := by omega
    right
    rw [lower, hval, if_pos (by omega), hback, Char.ofNat_toNat]
  next => exact .inl rfl

theorem mnemonicRows_lower : ∀ row ∈ mnemonicRows, row.2.1.toList = row.1.toList.map lower := by decide

/-- Every row of the opcode map has its mnemonic and its OP in the statements' table (R85). -/
theorem exists_mnemonicRow : ∀ r ∈ opRows, ∃ row ∈ mnemonicRows, row.1 = r.mnemonic ∧ row.2.2 = r.op := by decide

theorem asmOp_of_mem_mnemonicRows :
    ∀ row ∈ mnemonicRows, asmOp row.1.toList = some row.2.2 ∧ asmOp row.2.1.toList = some row.2.2 := by decide

/-- A name read as a mnemonic is spelt like it, letter by letter in one of the two cases. -/
theorem names_of_map_upper {name : List Char} {row : String × String × Byte} (hrow : row ∈ mnemonicRows)
    (h : row.1.toList = name.map upper) : Names name row := by
  have hzip : row.1.toList.zip row.2.1.toList = name.map fun c => (upper c, lower (upper c)) := by
    rw [mnemonicRows_lower row hrow, h, List.map_map, List.zip_map']
    rfl
  rw [Names, hzip, List.forall₂_map_right_iff, List.forall₂_same]
  exact fun c _ => eq_upper_or_eq_lower_upper c

/-- A name that names an OP is a mnemonic of it (R85, R88). -/
theorem names_of_asmOp {name : List Char} {op : Byte} (h : asmOp name = some op) :
    ∃ row ∈ mnemonicRows, row.2.2 = op ∧ Names name row := by
  obtain ⟨r, hfind, rfl⟩ := Option.map_eq_some_iff.1 h
  have hfound := List.find?_some hfind
  have hname : r.mnemonic.toList = name.map upper := beq_iff_eq.1 hfound
  obtain ⟨row, hrow, hmnemonic, hop⟩ := exists_mnemonicRow r (List.mem_of_find?_eq_some hfind)
  exact ⟨row, hrow, hop, names_of_map_upper hrow (hmnemonic ▸ hname)⟩

/-- A command's text is its mnemonic and its operands, each read on its own. -/
theorem assemble_eq_some_iff {name : List Char} {operands : List (List Char)} {i : Instr} :
    assemble name operands = some i ↔
      ∃ op xs, asmOp name = some op ∧ operands.mapM readOperand = some xs ∧ asmOperands op xs = some i := by
  unfold assemble
  cases asmOp name with
  | none => simp
  | some op => cases operands.mapM readOperand <;> simp

/-- Settles O58: numbers by `asmOperands_number_iff`, characters and strings as the numbers of their codes, names by
the table. -/
theorem theAssemblerNeverTruncates : Obligations.TheAssemblerNeverTruncates := by
  refine ⟨asmOperands_number_iff, fun code i => ?_, fun codes i => ?_, asmOp_of_mem_mnemonicRows,
    fun name op => names_of_asmOp, fun name operands i => assemble_eq_some_iff⟩
  · rw [asmOperands_character, asmOperands_number_iff]
    exact and_congr_right fun hop => spells_iff_of_opByte hop (by decide)
  · rw [asmOperands_string, asmOperands_number_iff]
    exact and_congr_right fun hop => spells_iff_of_opByte hop (by decide)

end Sys2Proof.Machine
end
